-- ==== Sys2Proof/Word.lean ====
section
/-!
DEFINITION. The word types of UGCM-CORE (spec/00_scope.md section 4, spec/10_state.md R10): bytes, nibbles, the 64-bit words
of descriptors, addresses and lengths, the 16-byte block and the field element.
-/

namespace Sys2Proof

/-- A `byte` (00_scope.md section 4). -/
abbrev Byte := BitVec 8

/-- A `u4`: one nibble, the index of the two 16-entry tables. -/
abbrev Nibble := BitVec 4

/-- A `u64`: addresses, lengths, descriptor words (R4, R60). -/
abbrev Word := BitVec 64

/-- A `Block`: exactly 16 bytes, byte `i` at index `i` (00_scope.md section 4). -/
abbrev Block := Vector Byte 16

/-- A field element (R10): `low` is the first eight bytes on the wire, `high` the next eight. -/
structure FE where
  low : Word
  high : Word
deriving DecidableEq, Repr, Inhabited

/-- The zero of the field. -/
def FE.zero : FE := ⟨0, 0⟩

/-- The field's one (R12): the coefficient of `x^0` is the most significant bit of `low`. -/
def FE.one : FE := ⟨0x8000000000000000, 0⟩

/-- The coefficient of `x^i` (R12): bit `63 - i` of `low` for `i` in 0..63, bit `63 - (i - 64)` of `high` for `i` in 64..127. -/
def FE.coeff (x : FE) (i : Nat) : Bool :=
  if i < 64 then x.low.getLsbD (63 - i) else x.high.getLsbD (127 - i)

/-- `zeros(16)`: the block of sixteen zero bytes. -/
def zeroBlock : Block := Vector.replicate 16 0

end Sys2Proof
end

