-- ==== Sys2Proof/Config.lean ====
section
/-!
DEFINITION. What an implementation or platform fixes, and the free values: the sizes of R3 and R4, the two OPEN parameters of
spec/92_eei_decisions.md (`E`, `MemAdmits`), and what the spec leaves unspecified after reset (R32, R190). The opaque
constants have no body: no proof can use a value of one.
-/

namespace Sys2Proof.Config

/-- `NONCE_LEN` (R3): a nonce is exactly 16 bytes. -/
def nonceLen : Word := 16

/-- `TAG_LEN` (R3): a tag is exactly 16 bytes. -/
def tagLen : Word := 16

/-- The size of the address space (R4, R40): `2^64` bytes. -/
def addressSpace : Nat := 2 ^ 64

/-- What an address of `MEM` reads as when nothing has written it. DESIGN CHOICE (log entry 3): unsafe, the spec fixes no contents. -/
def unwrittenByte : Byte := 0

/-- The block cipher `E` behind the cipher port, per key (R5, D18): total, otherwise unknown. The key is inside `E`, the core never
sees it. Log entry 1. -/
opaque blockCipher : Nat → Block → Block

/-- `MemAdmits(addr, n)` (D6): whether the platform performs an access of `n` bytes at `addr`. Log entry 2. -/
opaque memAdmits : Word → Word → Bool

/-- Free values: what the `n`-th reset move leaves in `PT[1..15]` (R32, U6: unspecified). Log entry 8. -/
opaque resetPT : Nat → Vector FE 15

/-- Free value: `GH` after the `n`-th reset move (R32, U6). Log entry 8. -/
opaque resetGH : Nat → FE

/-- Free value: `CTR` after the `n`-th reset move (R32, U6). Log entry 8. -/
opaque resetCTR : Nat → Block

/-- Free value: `TMASK` after the `n`-th reset move (R32, U6). Log entry 8. -/
opaque resetTMASK : Nat → Block

/-- Free value: `AADLEN` after the `n`-th reset move (R32, U6). Log entry 8. -/
opaque resetAADLEN : Nat → Word

/-- Free value: `DATALEN` after the `n`-th reset move (R32, U6). Log entry 8. -/
opaque resetDATALEN : Nat → Word

/-- Free value: byte `i` of the output region of a command that the `n`-th reset move interrupts (R190, U8). Log entry 9. -/
opaque abandonedByte : Nat → Nat → Byte

end Sys2Proof.Config
end

