-- ==== Sys2Proof/Syntax.lean ====
section
/-!
DEFINITION. The syntax of commands (spec/30_encoding.md): the five-word descriptor as it lies on the command port (R60) and the
six commands (R64), each with its four operand words.
-/

namespace Sys2Proof

/-- A command descriptor (R60): five 64-bit words taken by value from the command port. -/
structure Descriptor where
  w0 : Word
  w1 : Word
  w2 : Word
  w3 : Word
  w4 : Word
deriving DecidableEq, Repr

/-- `OPCODE = W0[7:0]` (R60, R63). -/
def Descriptor.opcode (d : Descriptor) : Byte := d.w0.extractLsb' 0 8

/-- `RSV0 = W0[63:8]` (R60, R63): reserved, must be zero. -/
def Descriptor.rsv0 (d : Descriptor) : BitVec 56 := d.w0.extractLsb' 8 56

/-- The six commands, one constructor per row of spec/opcode_table.json. Each keeps all four operand words `A_ADDR`, `A_LEN`, `B_ADDR`,
`B_LEN` of its descriptor, also the ones that R62 marks "ignored", so that no bit of an encoding is dropped (log entry 13). -/
inductive Instr where
  | initEnc (aAddr aLen bAddr bLen : Word)   -- INIT_ENC: nonce region, AAD region (R132)
  | initDec (aAddr aLen bAddr bLen : Word)   -- INIT_DEC: nonce region, AAD region (R133)
  | encrypt (aAddr aLen bAddr bLen : Word)   -- ENCRYPT: input region, output address, ignored (R134)
  | decrypt (aAddr aLen bAddr bLen : Word)   -- DECRYPT: input region, output address, ignored (R135)
  | tag     (aAddr aLen bAddr bLen : Word)   -- TAG: ignored, ignored, tag address, ignored (R137)
  | verify  (aAddr aLen bAddr bLen : Word)   -- VERIFY: candidate region, ignored, ignored (R138)
deriving DecidableEq, Repr

end Sys2Proof
end

