-- ==== Sys2Proof/WellFormed.lean ====
section
/-!
DEFINITION. Well-formed commands: what a host owes a descriptor before any state is looked at. Two checks: operand words that
R62 marks "ignored" are zero (R66, R68), and no operand region runs past the top of the address space (R48). The core itself
decodes and runs ill-formed commands too (R66), or the model refuses them by name (R48). Log entry 14.
-/

namespace Sys2Proof

/-- `addr + n <= 2^64` (R48), on unbounded integers; an empty region is always admitted, whatever its address. -/
def regionFits (addr len : Word) : Bool :=
  decide (len = 0) || decide (addr.toNat + len.toNat ≤ Config.addressSpace)

/-- The operand words that R62 marks "ignored" are zero, as the textual form writes them (R66, R68). -/
def Instr.ignoredZero : Instr → Bool
  | .initEnc _ _ _ _ => true
  | .initDec _ _ _ _ => true
  | .encrypt _ _ _ bLen => decide (bLen = 0)
  | .decrypt _ _ _ bLen => decide (bLen = 0)
  | .tag aAddr aLen _ bLen => decide (aAddr = 0 ∧ aLen = 0 ∧ bLen = 0)
  | .verify _ _ bAddr bLen => decide (bAddr = 0 ∧ bLen = 0)

/-- The regions the command would touch (R44) lie inside the address space (R48). -/
def Instr.regionsFit : Instr → Bool
  | .initEnc aAddr _ bAddr bLen => regionFits aAddr Config.nonceLen && regionFits bAddr bLen
  | .initDec aAddr _ bAddr bLen => regionFits aAddr Config.nonceLen && regionFits bAddr bLen
  | .encrypt aAddr aLen bAddr _ => regionFits aAddr aLen && regionFits bAddr aLen
  | .decrypt aAddr aLen bAddr _ => regionFits aAddr aLen && regionFits bAddr aLen
  | .tag _ _ bAddr _ => regionFits bAddr Config.tagLen
  | .verify aAddr _ _ _ => regionFits aAddr Config.tagLen

/-- A command as a careful host writes it. -/
def Instr.wellFormed (i : Instr) : Bool := i.ignoredZero && i.regionsFit

end Sys2Proof
end

