-- ==== Sys2Proof/Decode.lean ====
section
/-!
DEFINITION. Decoding a descriptor (spec/30_encoding.md R60 to R65, R69), total on every 320-bit value and rejecting by name, and
after it the encoder. The words are integers on a port: no byte order applies (R60, R42).
-/

namespace Sys2Proof

/-- Why a descriptor is illegal (R65): a nonzero bit in `RSV0`, or an `OPCODE` outside `0x01..0x06`. -/
inductive DecodeError where
  | reservedBits
  | unknownOpcode
deriving DecidableEq, Repr

/-- The descriptor held in 320 bits, `W0` in the least significant 64 and each later word counting on from it, as
spec/opcode_table.json numbers an instruction's bits. -/
def Descriptor.ofNat (n : Nat) : Descriptor :=
  ⟨BitVec.ofNat 64 n, BitVec.ofNat 64 (n / 2 ^ 64), BitVec.ofNat 64 (n / 2 ^ 128),
   BitVec.ofNat 64 (n / 2 ^ 192), BitVec.ofNat 64 (n / 2 ^ 256)⟩

/-- The 320 bits of a descriptor, in the numbering of `Descriptor.ofNat`. -/
def Descriptor.toNat (d : Descriptor) : Nat :=
  d.w0.toNat + 2 ^ 64 * (d.w1.toNat + 2 ^ 64 * (d.w2.toNat + 2 ^ 64 * (d.w3.toNat + 2 ^ 64 * d.w4.toNat)))

/-- The opcode map (R64) applied once `RSV0` is known to be zero. -/
def decodeOpcode (op : Byte) (aAddr aLen bAddr bLen : Word) : Except DecodeError Instr :=
  if op = 0x01 then .ok (.initEnc aAddr aLen bAddr bLen)
  else if op = 0x02 then .ok (.initDec aAddr aLen bAddr bLen)
  else if op = 0x03 then .ok (.encrypt aAddr aLen bAddr bLen)
  else if op = 0x04 then .ok (.decrypt aAddr aLen bAddr bLen)
  else if op = 0x05 then .ok (.tag aAddr aLen bAddr bLen)
  else if op = 0x06 then .ok (.verify aAddr aLen bAddr bLen)
  else .error .unknownOpcode

/-- Decoding (R63, R64, R65): `A_ADDR = W1`, `A_LEN = W2`, `B_ADDR = W3`, `B_LEN = W4`; all 64 bits of `W0` must match. -/
def decode (d : Descriptor) : Except DecodeError Instr :=
  if d.rsv0 ≠ 0 then .error .reservedBits
  else decodeOpcode d.opcode d.w1 d.w2 d.w3 d.w4

/-- The descriptor of a command: the `W0` column of R64 and the operand words of R60. -/
def encode : Instr → Descriptor
  | .initEnc aAddr aLen bAddr bLen => ⟨0x0000000000000001, aAddr, aLen, bAddr, bLen⟩
  | .initDec aAddr aLen bAddr bLen => ⟨0x0000000000000002, aAddr, aLen, bAddr, bLen⟩
  | .encrypt aAddr aLen bAddr bLen => ⟨0x0000000000000003, aAddr, aLen, bAddr, bLen⟩
  | .decrypt aAddr aLen bAddr bLen => ⟨0x0000000000000004, aAddr, aLen, bAddr, bLen⟩
  | .tag     aAddr aLen bAddr bLen => ⟨0x0000000000000005, aAddr, aLen, bAddr, bLen⟩
  | .verify  aAddr aLen bAddr bLen => ⟨0x0000000000000006, aAddr, aLen, bAddr, bLen⟩

/-- The command port's word for an instruction of the opcode table: `nbits` bits of `w`, every bit above them zero. -/
def tableDescriptor (nbits w : Nat) : Descriptor := Descriptor.ofNat (w % 2 ^ nbits)

/-- What the decoder reads from an instruction whose bits are `w`, numbered as spec/opcode_table.json numbers them. A descriptor has
320 bits and no other length (R60), so a longer one is none. -/
def decodeTableWord (nbits w : Nat) : Option Instr :=
  if nbits ≤ 320 then
    match decode (tableDescriptor nbits w) with
    | .ok i => some i
    | .error _ => none
  else none

end Sys2Proof
end

