-- ==== Sys2Proof/Machine/State.lean ====
section
/-!
DEFINITION. The state of UGCM-CORE (spec/10_state.md), its memory (spec/20_memory.md R40) and ports, the reasons a step stops,
and the machine right after reset (R32).
-/

namespace Sys2Proof.Machine

/-- `MODE` (R22): the session state machine's state; all four 2-bit codes are used. -/
inductive Mode where
  | idle      -- 0: no session
  | enc       -- 1: live encrypter session
  | dec       -- 2: live decrypter session
  | faulted   -- 3: a fatal error was raised; only reset leaves it
deriving DecidableEq, Repr

/-- A machine fault. It has no constructor: the spec's faults (60_exceptions.md R160) are entered, that is a next state with `MODE = FAULTED`
(R166), and nothing else can fail (R172). Nobody raises one; safe. Log entry 15. -/
inductive Fault where
deriving DecidableEq, Repr

/-- Why the model gives a step no meaning. -/
inductive Refusal where
  /-- Raised by an arm of `exec` whose instruction has no meaning yet; safe (the model stops). No arm of this model raises it. -/
  | notModelled (mnemonic : String)
  /-- Raised by a command, past the checks of R131, one of whose regions has `addr + n > 2^64` (R48: "this spec gives such a command
  no meaning, and a model should refuse it"); safe. Log entry 10. -/
  | regionWraps
  /-- Raised by a command, past the checks of R131, one of whose regions the platform does not admit (R48, R174); safe. Log entry 10. -/
  | regionNotAdmitted
  /-- Raised by a move of the platform that would change `E` within a session (R5, R196, 93_implementation_defined.md U9: "refuse"); safe (the
  spec gives such a run no meaning). No command raises it. Log entry 12. -/
  | cipherFixedInSession
deriving DecidableEq, Repr

/-- The product table `PT` (R13): the stored entries `PT[1..15]`; `PT[i]` is at position `i - 1`. `PT[0]` has no storage. -/
abbrev ProductTable := Vector FE 15

/-- `MEM` (R6, R40): the bytes that differ from `Config.unwrittenByte`, by strictly rising address. -/
abbrev Memory := List Host.Cell

/-- What stands behind the cipher port (R5): the answers the platform is known to give, and off them the opaque cipher of a key.
Together an arbitrary total function of the block, as plain data (log entry 1). -/
structure CipherPort where
  key : Nat
  answers : List (Block × Block)
deriving DecidableEq, Repr

/-- An address window `[base, base + size)` all of whose accesses the platform is known to admit (D6, log entry 2). -/
structure Window where
  base : Nat
  size : Nat
deriving DecidableEq, Repr

/-- The moves of the host and the platform (R7): they land between commands, but for the reset that abandons a running command. -/
inductive HostMove where
  /-- Present one descriptor on the command port (R60). -/
  | present (d : Descriptor)
  /-- Write one byte of `MEM` (R7). -/
  | poke (addr : Word) (value : Byte)
  /-- Assert reset while no command runs (R190). -/
  | reset
  /-- Present a descriptor and assert reset before its response (R190). -/
  | resetDuring (d : Descriptor)
  /-- The platform connects the cipher port to a block cipher with its key in place (R191 step 1), while no session is live (R196). -/
  | connectCipher (port : CipherPort)
  /-- The platform connects the cipher port, and the next descriptor the host presents is `d`: after the last command of a session and "before
  the next `INIT_*`" (R196). -/
  | rekey (port : CipherPort) (d : Descriptor)
deriving DecidableEq, Repr

/-- The state. `RT` is a ROM (R14), a constant of Machine/Field.lean; `GLEN` and `XLEN` are the lengths of `gbuf` and `xm`. -/
structure State where
  mode    : Mode               -- `MODE` (R22)
  fcode   : Byte               -- `FCODE` (R23)
  pt      : ProductTable       -- `PT[1..15]` (R13)
  gh      : FE                 -- `GH` (R15)
  gbuf    : List Byte          -- `GBUF`, of length `GLEN` (R16)
  ctr     : Block              -- `CTR` (R17)
  tmask   : Block              -- `TMASK` (R18)
  xm      : List Byte          -- `XM`, of length `XLEN` (R19)
  aadlen  : Word               -- `AADLEN` (R20)
  datalen : Word               -- `DATALEN` (R21)
  mem     : Memory             -- `MEM` (R6, R40)
  resp    : Option Byte        -- the response port: the code the last finished command gave (R67)
  inbox   : List HostMove      -- the host's moves still to come, oldest first; a presented descriptor at the head is the command port's
  cipher  : CipherPort         -- the parameter `E` (R5)
  windows : List Window        -- the parameter `MemAdmits` (D6): windows known to be admitted
  draws   : Nat                -- how many reset moves have drawn free values (R32, R190)
deriving DecidableEq, Repr

/-- The machine right after reset (R32, R190): `MODE = IDLE`, `FCODE = 0`, `GLEN = 0`, `XLEN = 0`. `PT[1..15]`, `GH`, `CTR`, `TMASK`, `AADLEN`
and `DATALEN` are unspecified there: zero is the model's choice (log entry 4). Nothing is presented and nothing is written. -/
def State.reset : State where
  mode := .idle
  fcode := 0x00
  pt := Vector.replicate 15 FE.zero
  gh := FE.zero
  gbuf := []
  ctr := zeroBlock
  tmask := zeroBlock
  xm := []
  aadlen := 0
  datalen := 0
  mem := []
  resp := none
  inbox := []
  cipher := { key := 0, answers := [] }
  windows := []
  draws := 0

/-- What a step answers. -/
abbrev Result := Host.Outcome State Fault Refusal

end Sys2Proof.Machine
end

