-- ==== Sys2Proof/Machine/Field.lean ====
section
/-!
DEFINITION. Field arithmetic GF2_128 (spec/40_field_arithmetic.md R80 to R86, spec/10_state.md R11): `bitrev4`, `add`, `double`, the reduction
table `RT`, `mul` by H through the product table, `BuildTable`, and the algebraic meaning of these operations.
-/

namespace Sys2Proof.Machine

/-- `bitrev4(i)` (R80): swap the two 2-bit halves, then swap adjacent bits within each half. -/
def bitrev4 (i : Nibble) : Nibble :=
  let j := ((i <<< 2) &&& 0xC) ||| ((i >>> 2) &&& 0x3)
  ((j <<< 1) &&& 0xA) ||| ((j >>> 1) &&& 0x5)

/-- `add(x, y)` (R81): XOR of the halves. -/
def add (x y : FE) : FE := ⟨x.low ^^^ y.low, x.high ^^^ y.high⟩

/-- `double(x)` (R82): multiplication by the polynomial `x`, reduced by `x^128 + x^7 + x^2 + x + 1`. -/
def double (x : FE) : FE :=
  let high := (x.high >>> 1) ||| (x.low <<< 63)
  let low := x.low >>> 1
  if x.high &&& 1 = 1 then ⟨low ^^^ 0xE100000000000000, high⟩ else ⟨low, high⟩

/-- `RT[0..15]` (R14, R84): the reduction table, sixteen 16-bit constants. -/
def RT : Vector (BitVec 16) 16 :=
  #v[0x0000, 0x1c20, 0x3840, 0x2460, 0x7080, 0x6ca0, 0x48c0, 0x54e0,
     0xe100, 0xfd20, 0xd940, 0xc560, 0x9180, 0x8da0, 0xa9c0, 0xb5e0]

/-- Reading `RT[i]`. -/
def readRT (i : Nibble) : BitVec 16 := RT[i.toNat]'i.isLt

/-- Reading `PT[i]` (R13): index 0 is hardwired to `(0, 0)` in every mode. -/
def ProductTable.read (pt : ProductTable) (i : Nibble) : FE :=
  if h : i = 0 then FE.zero
  else pt[i.toNat - 1]'(by have := i.isLt; have : i.toNat ≠ 0 := fun e => h (BitVec.eq_of_toNat_eq e); omega)

/-- Writing `PT[i]` (R13): index 0 has no storage and is never written. -/
def ProductTable.write (pt : ProductTable) (i : Nibble) (v : FE) : ProductTable :=
  if h : i = 0 then pt
  else pt.set (i.toNat - 1) v (by have := i.isLt; have : i.toNat ≠ 0 := fun e => h (BitVec.eq_of_toNat_eq e); omega)

/-- One of the 32 nibble steps of `mul` (R83, steps 1 to 4): shift `z` by `x^4`, fold the four coefficients pushed out through `RT`, add `PT[n]`. -/
def mulStep (pt : ProductTable) (z : FE) (n : Nibble) : FE :=
  let msw : Nibble := z.high.extractLsb' 0 4
  let high := (z.high >>> 4) ||| (z.low <<< 60)
  let low := (z.low >>> 4) ^^^ ((readRT msw).setWidth 64 <<< 48)
  add ⟨low, high⟩ (pt.read n)

/-- The inner loop of `mul` (R83): `k` nibbles of `word`, least significant first. -/
def mulWord (pt : ProductTable) : Nat → Word → FE → FE
  | 0, _, z => z
  | k + 1, word, z => mulWord pt k (word >>> 4) (mulStep pt z (word.extractLsb' 0 4))

/-- `mul(y)` (R83): `y · H` for the H whose multiples `pt` holds; `y.high` first, then `y.low`, 32 steps always. -/
def mul (pt : ProductTable) (y : FE) : FE :=
  mulWord pt 16 y.low (mulWord pt 16 y.high FE.zero)

/-- One round of the loop of `BuildTable` (R85): the even multiple `i` and the odd multiple after it. -/
def buildPair (H : FE) (pt : ProductTable) (i : Nibble) : ProductTable :=
  let pt := pt.write (bitrev4 i) (double (pt.read (bitrev4 (i >>> 1))))
  pt.write (bitrev4 (i + 1)) (add (pt.read (bitrev4 i)) H)

/-- `BuildTable(H)` (R85): writes all of `PT[1..15]`. It starts from the old table; the order of the writes is that of the rule. -/
def buildTable (old : ProductTable) (H : FE) : ProductTable :=
  [2, 4, 6, 8, 10, 12, 14].foldl (buildPair H) (old.write (bitrev4 1) H)

/-- `k·H` (R86): `(k3·x^3 + k2·x^2 + k1·x + k0) · H`. -/
def multipleOf (k : Nibble) (H : FE) : FE :=
  let pick (i : Nat) (x : FE) : FE := if k.getLsbD i then x else FE.zero
  add (pick 0 H) (add (pick 1 (double H))
    (add (pick 2 (double (double H))) (pick 3 (double (double (double H))))))

/-- The field product, bit by bit (R86, R12): the sum of `x^i · b` over the coefficients `x^i` of `a`, by shift and add. It is what
`mul` is compared with (spec/95_test_vectors.md section 2.5), not how the hardware multiplies. -/
def productFrom (a : FE) : Nat → Nat → FE → FE
  | _, 0, _ => FE.zero
  | i, n + 1, b => add (if a.coeff i then b else FE.zero) (productFrom a (i + 1) n (double b))

/-- `a · b` in the field of R86. -/
def product (a b : FE) : FE := productFrom a 0 128 b

/-- `be64(s)` (00_scope.md section 4): the big-endian integer of eight bytes. -/
def be64 (s : Vector Byte 8) : Word :=
  s[0] ++ s[1] ++ s[2] ++ s[3] ++ s[4] ++ s[5] ++ s[6] ++ s[7]

/-- `bytes_be64(v)`, the inverse of `be64`. -/
def bytesBe64 (v : Word) : Vector Byte 8 := Vector.ofFn fun i => v.extractLsb' (56 - 8 * i.val) 8

/-- `fe_of_block(b)` (R11). -/
def feOfBlock (b : Block) : FE :=
  ⟨be64 (Vector.ofFn fun i => b[i.val]), be64 (Vector.ofFn fun i => b[8 + i.val])⟩

/-- `block_of_fe(x)` (R11). -/
def blockOfFe (x : FE) : Block := bytesBe64 x.low ++ bytesBe64 x.high

end Sys2Proof.Machine
end

