-- ==== Sys2Proof/Machine/Flags.lean ====
section
/-!
DEFINITION. The core has no flags (spec/10_state.md R25). The only status is the response code of each command
(spec/30_encoding.md R67) and the pair `MODE` / `FCODE`; this file gives their codes, and the 4-bit counts `GLEN` and `XLEN`.
-/

namespace Sys2Proof.Machine

/-- `OK` (R67). -/
def codeOk : Byte := 0x00
/-- `AUTH_FAILURE` (R67): a recoverable result of `VERIFY` (R163). -/
def codeAuthFailure : Byte := 0x01
/-- `FAULT_INVALID_NONCE_LENGTH` (R67, R161). -/
def codeInvalidNonceLength : Byte := 0x80
/-- `FAULT_BUFFER_ALIASING` (R67, R162). -/
def codeBufferAliasing : Byte := 0x81
/-- `FAULT_ILLEGAL_COMMAND` (R67, R164). -/
def codeIllegalCommand : Byte := 0x82
/-- `FAULT_ROLE_VIOLATION` (R67, R165). -/
def codeRoleViolation : Byte := 0x83

/-- Bit 7 set means a fatal fault (R67). -/
def isFatal (code : Byte) : Bool := code.getLsbD 7

/-- The four fault codes (R160). -/
def faultCodes : List Byte := [codeInvalidNonceLength, codeBufferAliasing, codeIllegalCommand, codeRoleViolation]

/-- Every code that is ever produced (R67). -/
def responseCodes : List Byte := codeOk :: codeAuthFailure :: faultCodes

/-- The 2-bit code of `MODE` (R22). -/
def Mode.code : Mode → BitVec 2
  | .idle => 0
  | .enc => 1
  | .dec => 2
  | .faulted => 3

/-- A live session: `MODE` is `ENC` or `DEC` (R22). -/
def Mode.live : Mode → Bool
  | .enc => true
  | .dec => true
  | .idle => false
  | .faulted => false

/-- `GLEN` (R16): the 4-bit count of waiting data bytes. -/
def State.glen (s : State) : BitVec 4 := BitVec.ofNat 4 s.gbuf.length

/-- `XLEN` (R19): the 4-bit count of leftover keystream bytes. -/
def State.xlen (s : State) : BitVec 4 := BitVec.ofNat 4 s.xm.length

end Sys2Proof.Machine
end

