-- ==== Sys2Proof/Machine/Operands.lean ====
section
/-!
DEFINITION. Operands (spec/30_encoding.md R62, R63): regions, the regions each command touches (spec/20_memory.md R44), the aliasing
predicate (R46), which modes allow which command and the operand checks (spec/43_session_commands.md R131).
-/

namespace Sys2Proof.Machine

/-- An operand region: `len` bytes from `addr` (R48, R63). -/
structure Region where
  addr : Word
  len : Word
deriving DecidableEq, Repr

/-- The region holds the address `a`. -/
def Region.holds (r : Region) (a : Word) : Bool :=
  decide (r.addr.toNat ≤ a.toNat) && decide (a.toNat < r.addr.toNat + r.len.toNat)

/-- The window admits the region. -/
def Window.covers (w : Window) (r : Region) : Bool :=
  decide (w.base ≤ r.addr.toNat) && decide (r.addr.toNat + r.len.toNat ≤ w.base + w.size)

/-- `InexactOverlap(A_ADDR, B_ADDR, n)` (R46), on unbounded integers. -/
def inexactOverlap (aAddr bAddr n : Word) : Bool :=
  decide (0 < n.toNat) && decide (aAddr ≠ bAddr) &&
    decide (aAddr.toNat < bAddr.toNat + n.toNat) && decide (bAddr.toNat < aAddr.toNat + n.toNat)

/-- Check 3 of R131: `INIT_ENC`, `INIT_DEC` are allowed in `IDLE`, `ENC`, `DEC`. -/
def allowsInit (m : Mode) : Bool := decide (m ≠ .faulted)
/-- Check 3 of R131: `ENCRYPT` is allowed in `ENC` only. -/
def allowsEncrypt (m : Mode) : Bool := decide (m = .enc)
/-- Check 3 of R131: `DECRYPT` is allowed in `DEC` only. -/
def allowsDecrypt (m : Mode) : Bool := decide (m = .dec)
/-- Check 3 of R131: `TAG` is allowed in `ENC` and `DEC`. -/
def allowsTag (m : Mode) : Bool := m.live
/-- Check 3 of R131: `VERIFY` is allowed in `DEC` only. -/
def allowsVerify (m : Mode) : Bool := decide (m = .dec)

/-- What the operand check of R131 (check 4) decides. -/
inductive OperandCheck where
  | pass
  | fault (code : Byte)    -- raise Fault(code)
  | answer (code : Byte)   -- respond(code), not a fault, nothing changes
deriving DecidableEq, Repr

/-- Check 4 for `INIT_ENC`, `INIT_DEC` (R131, R161). -/
def checkNonceLength (aLen : Word) : OperandCheck :=
  if aLen = Config.nonceLen then .pass else .fault codeInvalidNonceLength

/-- Check 4 for `ENCRYPT`, `DECRYPT` (R131, R162). -/
def checkAliasing (aAddr aLen bAddr : Word) : OperandCheck :=
  if inexactOverlap aAddr bAddr aLen then .fault codeBufferAliasing else .pass

/-- Check 4 for `VERIFY` (R131, R138). -/
def checkTagLength (aLen : Word) : OperandCheck :=
  if aLen = Config.tagLen then .pass else .answer codeAuthFailure

/-- `INIT_ENC` or `INIT_DEC`: the commands that start a session (R31). -/
def isInit : Instr → Bool
  | .initEnc _ _ _ _ => true
  | .initDec _ _ _ _ => true
  | .encrypt _ _ _ _ => false
  | .decrypt _ _ _ _ => false
  | .tag _ _ _ _ => false
  | .verify _ _ _ _ => false

/-- The modes that allow a command (R131 check 3). -/
def allowedIn : Instr → Mode → Bool
  | .initEnc _ _ _ _ => allowsInit
  | .initDec _ _ _ _ => allowsInit
  | .encrypt _ _ _ _ => allowsEncrypt
  | .decrypt _ _ _ _ => allowsDecrypt
  | .tag _ _ _ _ => allowsTag
  | .verify _ _ _ _ => allowsVerify

/-- The operand check of a command (R131 check 4). -/
def operandCheck : Instr → OperandCheck
  | .initEnc _ aLen _ _ => checkNonceLength aLen
  | .initDec _ aLen _ _ => checkNonceLength aLen
  | .encrypt aAddr aLen bAddr _ => checkAliasing aAddr aLen bAddr
  | .decrypt aAddr aLen bAddr _ => checkAliasing aAddr aLen bAddr
  | .tag _ _ _ _ => .pass
  | .verify _ aLen _ _ => checkTagLength aLen

/-- The regions a command reads once its checks pass (R44). -/
def readRegions : Instr → List Region
  | .initEnc aAddr _ bAddr bLen => [⟨aAddr, Config.nonceLen⟩, ⟨bAddr, bLen⟩]
  | .initDec aAddr _ bAddr bLen => [⟨aAddr, Config.nonceLen⟩, ⟨bAddr, bLen⟩]
  | .encrypt aAddr aLen _ _ => [⟨aAddr, aLen⟩]
  | .decrypt aAddr aLen _ _ => [⟨aAddr, aLen⟩]
  | .tag _ _ _ _ => []
  | .verify aAddr _ _ _ => [⟨aAddr, Config.tagLen⟩]

/-- The region a command writes once its checks pass (R44, R53). -/
def writeRegions : Instr → List Region
  | .initEnc _ _ _ _ => []
  | .initDec _ _ _ _ => []
  | .encrypt _ aLen bAddr _ => [⟨bAddr, aLen⟩]
  | .decrypt _ aLen bAddr _ => [⟨bAddr, aLen⟩]
  | .tag _ _ bAddr _ => [⟨bAddr, Config.tagLen⟩]
  | .verify _ _ _ _ => []

/-- All regions a command touches (R44). -/
def regionsOf (i : Instr) : List Region := readRegions i ++ writeRegions i

end Sys2Proof.Machine
end

