-- ==== Sys2Proof/Machine/Ops.lean ====
section
/-!
DEFINITION. The named operations over memory, ports and registers: `MemRead` / `MemWrite` (spec/20_memory.md R41), the cipher port (R5), the
platform's admission (R48), `respond` (R67), `raise Fault` (R166), the checks every command goes through (R131), and reset (R190).
-/

namespace Sys2Proof.Machine

/-! ### Memory -/

/-- The byte an address holds; an address that is not listed reads as `Config.unwrittenByte`. -/
def Memory.readByte : Memory → Nat → Byte
  | [], _ => Config.unwrittenByte
  | (k, v) :: rest, a => if k = a then v else Memory.readByte rest a

/-- Listing `(a, b)` in front of `rest`, unless `b` is what an unlisted address reads as. -/
def Memory.cons (a : Nat) (b : Byte) (rest : Memory) : Memory :=
  if b = Config.unwrittenByte then rest else (a, b) :: rest

/-- Writing one byte, keeping the list sorted and free of unwritten bytes. -/
def Memory.writeByte : Memory → Nat → Byte → Memory
  | [], a, b => Memory.cons a b []
  | (k, v) :: rest, a, b =>
    if k < a then (k, v) :: Memory.writeByte rest a b
    else if k = a then Memory.cons a b rest
    else Memory.cons a b ((k, v) :: rest)

/-- The canonical form: addresses strictly rising and below `2^64`, no entry equal to what an unlisted address reads as. -/
def Memory.wf : Memory → Bool
  | [] => true
  | [(k, v)] => decide (k < Config.addressSpace) && decide (v ≠ Config.unwrittenByte)
  | (k, v) :: (k', v') :: rest =>
    decide (k < k') && decide (v ≠ Config.unwrittenByte) && Memory.wf ((k', v') :: rest)

/-- `MEM[addr]`. -/
def State.readByte (s : State) (addr : Word) : Byte := Memory.readByte s.mem addr.toNat

/-- `MemRead(addr, n)` (R41): the `n` bytes from `addr` on, in ascending order. The addresses of an admitted region do not wrap (R48);
the sum is taken modulo `2^64` (log entry 16). -/
def State.memRead (s : State) (addr n : Word) : List Byte :=
  (List.range n.toNat).map fun i => s.readByte (addr + BitVec.ofNat 64 i)

/-- Writing the bytes `bs` from `addr` on. -/
def Memory.writeFrom : Memory → Word → List Byte → Memory
  | m, _, [] => m
  | m, addr, b :: bs => Memory.writeFrom (Memory.writeByte m addr.toNat b) (addr + 1) bs

/-- `MemWrite(addr, n, v)` with `n = len(v)` (R41). -/
def State.memWrite (s : State) (addr : Word) (bs : List Byte) : State :=
  { s with mem := Memory.writeFrom s.mem addr bs }

/-! ### The cipher port and the platform -/

/-- `E(b)` for what stands behind the port (R5): a known answer, or else the opaque cipher of the key. -/
def CipherPort.encrypt (p : CipherPort) (b : Block) : Block :=
  match p.answers.lookup b with
  | some c => c
  | none => Config.blockCipher p.key b

/-- `E(b)` (R5): sends a block over the cipher port. -/
def State.E (s : State) : Block → Block := s.cipher.encrypt

/-- Why a region stops the command (R48): it wraps, or the platform does not admit it. An empty region is always admitted. -/
def State.regionRefusal (s : State) (r : Region) : Option Refusal :=
  if r.len = 0 then none
  else if Config.addressSpace < r.addr.toNat + r.len.toNat then some .regionWraps
  else if s.windows.any (fun w => w.covers r) || Config.memAdmits r.addr r.len then none
  else some .regionNotAdmitted

/-- The platform admits the region (R48). -/
def State.admits (s : State) (r : Region) : Bool := decide (s.regionRefusal r = none)

/-- The first region of the list that is not admitted stops the command. -/
def State.refusalOf (s : State) : List Region → Option Refusal
  | [] => none
  | r :: rs =>
    match s.regionRefusal r with
    | some why => some why
    | none => s.refusalOf rs

/-! ### Ending a command -/

/-- `respond(code)` (R67): the command ends and `code` is on the response port. -/
def State.respond (s : State) (code : Byte) : State := { s with resp := some code }

/-- `raise Fault(code)` (R166): the one fault entry. `MODE <- FAULTED`, `FCODE <- code`, `respond(code)`, nothing else. -/
def State.raiseFault (s : State) (code : Byte) : State :=
  { s with mode := .faulted, fcode := code, resp := some code }

/-- Check 1 of R131 (R167): in `FAULTED` every command answers the latched `FCODE`. -/
def State.answerLatched (s : State) : State := s.respond s.fcode

/-! ### How a command executes -/

/-- The checks of R131 around a command's body: already `FAULTED`, mode, operands, in this order (decoding, check 2, is the step's). The
first that fails decides. Then the host's duty R48 on the regions the body touches, and the body. -/
def runCommand (i : Instr) (body : State → State) (s : State) : Result :=
  if s.mode = .faulted then .next s.answerLatched
  else if allowedIn i s.mode then
    match operandCheck i with
    | .fault code => .next (s.raiseFault code)
    | .answer code => .next (s.respond code)
    | .pass =>
      match s.refusalOf (regionsOf i) with
      | some why => .refused why
      | none => .next (body s)
  else .next (s.raiseFault codeRoleViolation)

/-- A descriptor that decodes to no command (R131 checks 1 and 2, R164). -/
def illegalCommand (s : State) : State :=
  if s.mode = .faulted then s.answerLatched else s.raiseFault codeIllegalCommand

/-! ### Reset -/

/-- Asserting reset (R190, R32): `MODE`, `FCODE`, `GLEN` and `XLEN` at their reset values; the other registers unspecified, so free values
(log entry 8); `MEM`, the cipher port and the platform untouched; no response on the port. -/
def State.assertReset (s : State) : State :=
  { s with
    mode := .idle, fcode := 0x00, gbuf := [], xm := []
    pt := Config.resetPT s.draws, gh := Config.resetGH s.draws
    ctr := Config.resetCTR s.draws, tmask := Config.resetTMASK s.draws
    aadlen := Config.resetAADLEN s.draws, datalen := Config.resetDATALEN s.draws
    resp := none, draws := s.draws + 1 }

end Sys2Proof.Machine
end

