-- ==== Sys2Proof/Machine/Ghash.lean ====
section
/-!
DEFINITION. The GHASH accumulator (spec/41_ghash.md R100 to R103): `update` for inputs given whole, `absorb` and `ghash_flush` for streamed data.
-/

namespace Sys2Proof.Machine

/-- `pad16(s)` as a block (00_scope.md section 4): the bytes of `s`, then zeros; of a longer list, its first sixteen bytes. -/
def pad16 (s : List Byte) : Block := Vector.ofFn fun i => s.getD i.val 0

/-- Absorbing one block (R100): `mul(add(y, fe_of_block(b)))`. -/
def absorbBlock (pt : ProductTable) (y : FE) (b : List Byte) : FE := mul pt (add y (feOfBlock (pad16 b)))

/-- The first `m` blocks of `data`, in order (the loop of R100 and R101). -/
def absorbBlocks (pt : ProductTable) : Nat → FE → List Byte → FE
  | 0, y, _ => y
  | m + 1, y, data => absorbBlocks pt m (absorbBlock pt y (data.take 16)) (data.drop 16)

/-- The bytes of `data` past its full blocks: `data[16*floor(n/16) .. n]`. -/
def partialBlock (data : List Byte) : List Byte := data.drop (16 * (data.length / 16))

/-- `update(y, data)` (R100): all full blocks, then a last partial block padded with zeros. -/
def update (pt : ProductTable) (y : FE) (data : List Byte) : FE :=
  let y := absorbBlocks pt (data.length / 16) y data
  if data.length % 16 = 0 then y else absorbBlock pt y (partialBlock data)

/-- `absorb(d)` (R101): every completed block of `GBUF || d` goes into `GH`, the rest waits in `GBUF`. -/
def State.absorb (s : State) (d : List Byte) : State :=
  let buf := s.gbuf ++ d
  { s with gh := absorbBlocks s.pt (buf.length / 16) s.gh buf, gbuf := partialBlock buf }

/-- `ghash_flush()` (R102): the accumulator as it would be if the data ended now; no register changes. -/
def State.ghashFlush (s : State) : FE :=
  if s.gbuf = [] then s.gh else absorbBlock s.pt s.gh s.gbuf

end Sys2Proof.Machine
end

