-- ==== Sys2Proof/Machine/Keystream.lean ====
section
/-!
DEFINITION. The counter keystream (spec/42_ctr_keystream.md R110 to R115): `inc32`, `derive_counter`, `setup_counter`, `counter_crypt`.
-/

namespace Sys2Proof.Machine

/-- `be32(s)`: the big-endian integer of four bytes. -/
def be32 (s : Vector Byte 4) : BitVec 32 := s[0] ++ s[1] ++ s[2] ++ s[3]

/-- `bytes_be32(v)`, the inverse of `be32`. -/
def bytesBe32 (v : BitVec 32) : Vector Byte 4 := Vector.ofFn fun i => v.extractLsb' (24 - 8 * i.val) 8

/-- Bytes 0..11 of a counter block. -/
def counterHead (ctr : Block) : Vector Byte 12 := Vector.ofFn fun i => ctr[i.val]

/-- Bytes 12..15 of a counter block as a big-endian integer: the 32-bit tail (R17). -/
def counterTail (ctr : Block) : BitVec 32 := be32 (Vector.ofFn fun i => ctr[12 + i.val])

/-- `inc32(c)` (R110): the tail plus one modulo `2^32`, bytes 0..11 unchanged. -/
def inc32 (c : Block) : Block := counterHead c ++ bytesBe32 (counterTail c + 1)

/-- `derive_counter(nonce)` (R111): GHASH of the nonce on a fresh accumulator, the bit length 128 into `high`, one more `mul`. -/
def deriveCounter (pt : ProductTable) (nonce : Block) : Block :=
  let y := update pt FE.zero nonce.toList
  blockOfFe (mul pt ⟨y.low, y.high ^^^ 128⟩)

/-- `setup_counter(nonce)` (R112): `TMASK = E(J0)`, `CTR = inc32(J0)`, no leftover keystream. -/
def State.setupCounter (s : State) (nonce : Block) : State :=
  let j0 := deriveCounter s.pt nonce
  { s with tmask := s.E j0, ctr := inc32 j0, xm := [] }

/-- `s xor t` for byte sequences of equal length. -/
def xorBytes (s t : List Byte) : List Byte := List.zipWith (fun a b => a ^^^ b) s t

/-- What `counter_crypt` leaves: the output bytes, the counter block and the leftover keystream. -/
structure Crypted where
  out : List Byte
  ctr : Block
  xm : List Byte
deriving DecidableEq, Repr

/-- The loop of `counter_crypt` (R113): at most `k` keystream blocks, while input is left. -/
def cryptBlocks (E : Block → Block) : Nat → Block → List Byte → List Byte → Crypted
  | 0, ctr, xm, _ => ⟨[], ctr, xm⟩
  | k + 1, ctr, xm, inp =>
    if inp = [] then ⟨[], ctr, xm⟩
    else
      let mask := (E ctr).toList
      let n := min 16 inp.length
      let rest := cryptBlocks E k (inc32 ctr) (mask.drop n) (inp.drop n)
      ⟨xorBytes (mask.take n) (inp.take n) ++ rest.out, rest.ctr, rest.xm⟩

/-- `counter_crypt(inp)` (R113) on the keystream registers: first the leftover keystream, then a block of keystream for each started
16 bytes of the input that is left. -/
def counterCrypt (E : Block → Block) (ctr : Block) (xm inp : List Byte) : Crypted :=
  let n := min xm.length inp.length
  let left := inp.drop n
  let rest := cryptBlocks E ((left.length + 15) / 16) ctr (xm.drop n) left
  ⟨xorBytes (xm.take n) (inp.take n) ++ rest.out, rest.ctr, rest.xm⟩

/-- `counter_crypt(inp)` (R113) in the core: its output, from `CTR`, `XM` and the cipher port. -/
def State.counterCrypt (s : State) (inp : List Byte) : Crypted := Machine.counterCrypt s.E s.ctr s.xm inp

end Sys2Proof.Machine
end

