-- ==== Sys2Proof/Machine/Session.lean ====
section
/-!
DEFINITION. The bodies the six commands share (spec/43_session_commands.md): `INIT(role)` (R132), `CRYPT()` (R134, R140) and `TagValue()` (R136).
-/

namespace Sys2Proof.Machine

/-- Steps 1 and 2 of `INIT` (R132): `H = fe_of_block(E(zeros(16)))` and its product table. -/
def State.loadTable (s : State) : State := { s with pt := buildTable s.pt (feOfBlock (s.E zeroBlock)) }

/-- Steps 3 and 4 of `INIT` (R132): the AAD into a fresh accumulator, the lengths. -/
def State.startStream (s : State) (aad : List Byte) (aadLen : Word) : State :=
  { s with gh := update s.pt FE.zero aad, gbuf := [], aadlen := aadLen, datalen := 0 }

/-- The role of a session (R22, R132): `MODE <- role`. -/
def State.setMode (s : State) (m : Mode) : State := { s with mode := m }

/-- `DATALEN <- (DATALEN + A_LEN) mod 2^64` (R21, R134). -/
def State.countData (s : State) (n : Word) : State := { s with datalen := s.datalen + n }

/-- The keystream registers after `counter_crypt` (R113). -/
def State.advanceKeystream (s : State) (r : Crypted) : State := { s with ctr := r.ctr, xm := r.xm }

/-- `INIT(role)` (R132, R133), after the checks. -/
def initSession (role : Mode) (aAddr bAddr bLen : Word) (s : State) : State :=
  let nonce := pad16 (s.memRead aAddr Config.nonceLen)
  let aad := s.memRead bAddr bLen
  let s := s.loadTable
  let s := s.startStream aad bLen
  let s := s.setupCounter nonce
  (s.setMode role).respond codeOk

/-- `CRYPT()` (R134, R135, R140), after the checks: absorb the input bytes, count them, apply the keystream, write the output. -/
def cryptData (aAddr aLen bAddr : Word) (s : State) : State :=
  let inp := s.memRead aAddr aLen
  let s := s.absorb inp
  let s := s.countData aLen
  let r := s.counterCrypt inp
  let s := s.advanceKeystream r
  (s.memWrite bAddr r.out).respond codeOk

/-- The bytewise XOR of two blocks. -/
def xorBlock (a b : Block) : Block := Vector.ofFn fun i => a[i.val] ^^^ b[i.val]

/-- `TagValue()` (R136): on a copy of `GH`; no register changes. The bit lengths are `8 *` the byte lengths modulo `2^64`. -/
def State.tagValue (s : State) : Block :=
  let y := s.ghashFlush
  let y := mul s.pt ⟨y.low ^^^ (s.aadlen <<< 3), y.high ^^^ (s.datalen <<< 3)⟩
  xorBlock (blockOfFe y) s.tmask

end Sys2Proof.Machine
end

