-- ==== Sys2Proof/Machine/Authentication.lean ====
section
/-!
DEFINITION. The commands `TAG` and `VERIFY` (spec/43_session_commands.md section 4).
-/

namespace Sys2Proof.Machine

/-- The body of `TAG` (R137): the sixteen bytes of `TagValue()` at `B_ADDR`. -/
def writeTag (bAddr : Word) (s : State) : State := (s.memWrite bAddr s.tagValue.toList).respond codeOk

/-- The body of `VERIFY` (R138, R144): `OK` when all sixteen candidate bytes equal `TagValue()`, else `AUTH_FAILURE`. -/
def compareTag (aAddr : Word) (s : State) : State :=
  s.respond (if s.memRead aAddr Config.tagLen = s.tagValue.toList then codeOk else codeAuthFailure)

/-- `TAG` (R137): `A_ADDR`, `A_LEN` and `B_LEN` are ignored (R66). -/
def execTag (aAddr aLen bAddr bLen : Word) (s : State) : Result :=
  runCommand (.tag aAddr aLen bAddr bLen) (writeTag bAddr) s

/-- `VERIFY` (R138): `B_ADDR` and `B_LEN` are ignored (R66). -/
def execVerify (aAddr aLen bAddr bLen : Word) (s : State) : Result :=
  runCommand (.verify aAddr aLen bAddr bLen) (compareTag aAddr) s

end Sys2Proof.Machine
end

