-- ==== Sys2Proof/Machine/Construction.lean ====
section
/-!
DEFINITION. The construction commands `INIT_ENC` and `INIT_DEC` (spec/43_session_commands.md section 2).
-/

namespace Sys2Proof.Machine

/-- `INIT_ENC` (R132): create an encrypter session; a live session is discarded (R198). -/
def execInitEnc (aAddr aLen bAddr bLen : Word) (s : State) : Result :=
  runCommand (.initEnc aAddr aLen bAddr bLen) (initSession .enc aAddr bAddr bLen) s

/-- `INIT_DEC` (R133): the same construction with the decrypter's role. -/
def execInitDec (aAddr aLen bAddr bLen : Word) (s : State) : Result :=
  runCommand (.initDec aAddr aLen bAddr bLen) (initSession .dec aAddr bAddr bLen) s

end Sys2Proof.Machine
end

