-- ==== Sys2Proof/Machine/Data.lean ====
section
/-!
DEFINITION. The data commands `ENCRYPT` and `DECRYPT` (spec/43_session_commands.md section 3): one datapath, two modes (R140).
-/

namespace Sys2Proof.Machine

/-- `ENCRYPT` (R134): the input is the plaintext; `B_LEN` is ignored (R66). -/
def execEncrypt (aAddr aLen bAddr bLen : Word) (s : State) : Result :=
  runCommand (.encrypt aAddr aLen bAddr bLen) (cryptData aAddr aLen bAddr) s

/-- `DECRYPT` (R135): the input is the ciphertext, released at once and unauthenticated (R145); `B_LEN` is ignored (R66). -/
def execDecrypt (aAddr aLen bAddr bLen : Word) (s : State) : Result :=
  runCommand (.decrypt aAddr aLen bAddr bLen) (cryptData aAddr aLen bAddr) s

end Sys2Proof.Machine
end

