-- ==== Sys2Proof/Machine/Dispatch.lean ====
section
/-!
DEFINITION. The dispatch: one arm per command, each a direct call of its meaning.
-/

namespace Sys2Proof.Machine

def exec (i : Instr) (s : State) : Host.Outcome State Fault Refusal :=
  match i with
  | .initEnc aAddr aLen bAddr bLen => Sys2Proof.Machine.execInitEnc aAddr aLen bAddr bLen s
  | .initDec aAddr aLen bAddr bLen => Sys2Proof.Machine.execInitDec aAddr aLen bAddr bLen s
  | .encrypt aAddr aLen bAddr bLen => Sys2Proof.Machine.execEncrypt aAddr aLen bAddr bLen s
  | .decrypt aAddr aLen bAddr bLen => Sys2Proof.Machine.execDecrypt aAddr aLen bAddr bLen s
  | .tag aAddr aLen bAddr bLen => Sys2Proof.Machine.execTag aAddr aLen bAddr bLen s
  | .verify aAddr aLen bAddr bLen => Sys2Proof.Machine.execVerify aAddr aLen bAddr bLen s

end Sys2Proof.Machine
end

