-- ==== Sys2Proof/Machine/HostMoves.lean ====
section
/-!
DEFINITION. The moves of the host and the platform (spec/00_scope.md R7, spec/70_reset_and_hazards.md R190, R191), and the command port (R60).
-/

namespace Sys2Proof.Machine

/-- The next move and the state once it has been taken from the inbox. -/
def State.takeMove (s : State) : Option (HostMove × State) :=
  match s.inbox with
  | [] => none
  | m :: rest => some (m, { s with inbox := rest })

/-- No move is left: the core is idle and keeps all state (R175); it does nothing of its own accord (R7). -/
def idleStep (s : State) : State := s

/-- The host writes one byte of `MEM` (R7). -/
def hostPoke (addr : Word) (value : Byte) (s : State) : State := s.memWrite addr [value]

/-- The platform connects the cipher port (R191 step 1). No register changes. -/
def hostConnect (port : CipherPort) (s : State) : State := { s with cipher := port }

/-- Connecting the port keeps `E` the same function throughout a session (R5, R196): no session is live, or what stands behind the port is what
stood there before. -/
def State.mayConnect (s : State) (port : CipherPort) : Bool := !s.mode.live || decide (port = s.cipher)

/-- The platform's move on the cipher port; refused where it would change `E` in a live session (U9). -/
def connectCipherMove (port : CipherPort) (s : State) : Result :=
  if s.mayConnect port then .next (hostConnect port s) else .refused .cipherFixedInSession

/-- The descriptor starts a session: it decodes to `INIT_ENC` or `INIT_DEC` (R31). -/
def startsSession (d : Descriptor) : Bool :=
  match decode d with
  | .ok i => isInit i
  | .error _ => false

/-- The regions of a descriptor that passes the checks of R131 at this state; none for one that does not, since a command that fails a check
touches no memory (R44). -/
def touchedRegions (s : State) (d : Descriptor) : List Region × List Region :=
  match decode d with
  | .error _ => ([], [])
  | .ok i =>
    if s.mode ≠ .faulted ∧ allowedIn i s.mode = true ∧ operandCheck i = .pass then (regionsOf i, writeRegions i)
    else ([], [])

/-- The free bytes of an abandoned output region of `n` bytes (R190, U8; log entry 9). -/
def abandonedBytes (draw n : Nat) : List Byte := (List.range n).map fun j => Config.abandonedByte draw j

/-- The output regions of an abandoned command hold free bytes afterwards. -/
def State.abandonOutput (s : State) : List Region → State
  | [] => s
  | r :: rs => (s.memWrite r.addr (abandonedBytes s.draws r.len.toNat)).abandonOutput rs

/-- Reset asserted while the presented command executes (R190): the command is abandoned without a response, the bytes of its output region
are unspecified, the registers are as after any reset. A command whose regions are not admitted has no meaning (R48). -/
def resetDuringCommand (d : Descriptor) (s : State) : Result :=
  match s.refusalOf (touchedRegions s d).1 with
  | some why => .refused why
  | none => .next (s.abandonOutput (touchedRegions s d).2).assertReset

end Sys2Proof.Machine
end

