-- ==== Sys2Proof/Machine/CommandPort.lean ====
section
/-!
DEFINITION. The command port: a presented descriptor, decoded and run (spec/43_session_commands.md R130, R131), and one presented after the platform
has changed the cipher between two sessions (spec/70_reset_and_hazards.md R196).
-/

namespace Sys2Proof.Machine

/-- A presented descriptor: decode (R131 check 2) and run. Check 1 comes first on both paths. -/
def runDescriptor (d : Descriptor) (s : State) : Result :=
  match decode d with
  | .ok i => exec i s
  | .error _ => .next (illegalCommand s)

/-- The platform connects the port and the host presents `d`: in a live session only where `d` is the `INIT_*` that ends it (R31, R196: "changing the
key between sessions (before the next `INIT_*`) is fine"), else refused (U9). -/
def rekeyMove (port : CipherPort) (d : Descriptor) (s : State) : Result :=
  if s.mayConnect port || startsSession d then runDescriptor d (hostConnect port s) else .refused .cipherFixedInSession

end Sys2Proof.Machine
end

