-- ==== Sys2Proof/Machine/Step.lean ====
section
/-!
DEFINITION. The step: one move of the host or platform, and for a presented descriptor one whole command (spec/00_scope.md R7,
spec/43_session_commands.md R130, R131).
-/

namespace Sys2Proof.Machine

/-- One step: the oldest move of the inbox. With no move left the core waits, unchanged. -/
def step (s : State) : Host.Outcome State Fault Refusal :=
  match s.takeMove with
  | none => .next (idleStep s)
  | some (.present d, s') => runDescriptor d s'
  | some (.poke addr value, s') => .next (hostPoke addr value s')
  | some (.reset, s') => .next s'.assertReset
  | some (.resetDuring d, s') => resetDuringCommand d s'
  | some (.connectCipher port, s') => connectCipherMove port s'
  | some (.rekey port d, s') => rekeyMove port d s'

/-- The state with one descriptor presented next: the command port is where the core takes its next command (R24, R60). -/
def State.withFetchWord (s : State) (nbits w : Nat) : State :=
  { s with inbox := .present (tableDescriptor nbits w) :: s.inbox }

end Sys2Proof.Machine
end

