-- ==== Sys2Proof/Machine/Assembly.lean ====
section
/-!
DEFINITION. The textual form of commands (spec/30_encoding.md R68): one command per line, the response after an arrow. Log entry 17 says how
numbers are spelled where the rule leaves it open.
-/

namespace Sys2Proof.Machine

/-- A line of the textual form: the operands it names, and the reset input, which is no command (R68). -/
inductive Line where
  | initEnc (nonceAddr nonceLen aadAddr aadLen : Word)
  | initDec (nonceAddr nonceLen aadAddr aadLen : Word)
  | encrypt (src len dst : Word)
  | decrypt (src len dst : Word)
  | tag (dst : Word)
  | verify (cand len : Word)
  | reset
deriving DecidableEq, Repr

/-- What a line stands for: the five words of R60, operand words not named on the line zero, or the reset input. -/
def Line.assemble : Line → HostMove
  | .initEnc nonceAddr nonceLen aadAddr aadLen => .present (encode (.initEnc nonceAddr nonceLen aadAddr aadLen))
  | .initDec nonceAddr nonceLen aadAddr aadLen => .present (encode (.initDec nonceAddr nonceLen aadAddr aadLen))
  | .encrypt src len dst => .present (encode (.encrypt src len dst 0))
  | .decrypt src len dst => .present (encode (.decrypt src len dst 0))
  | .tag dst => .present (encode (.tag 0 0 dst 0))
  | .verify cand len => .present (encode (.verify cand len 0 0))
  | .reset => .reset

/-- An address: hexadecimal with `0x`. -/
def hexText (w : Word) : String := "0x" ++ String.ofList (Nat.toDigits 16 w.toNat)

/-- A length: decimal. -/
def decText (w : Word) : String := String.ofList (Nat.toDigits 10 w.toNat)

/-- `@<addr>,<len>`. -/
def regionText (addr len : Word) : String := "@" ++ hexText addr ++ "," ++ decText len

/-- The text of a line (R68). -/
def Line.text : Line → String
  | .initEnc na nl aa al => "INIT_ENC nonce=" ++ regionText na nl ++ " aad=" ++ regionText aa al
  | .initDec na nl aa al => "INIT_DEC nonce=" ++ regionText na nl ++ " aad=" ++ regionText aa al
  | .encrypt src len dst => "ENCRYPT src=" ++ regionText src len ++ " dst=@" ++ hexText dst
  | .decrypt src len dst => "DECRYPT src=" ++ regionText src len ++ " dst=@" ++ hexText dst
  | .tag dst => "TAG dst=@" ++ hexText dst
  | .verify cand len => "VERIFY cand=" ++ regionText cand len
  | .reset => "RESET"

/-- A response code as it stands after the arrow: two hexadecimal digits with `0x`. -/
def codeText (code : Byte) : String :=
  "0x" ++ String.ofList (Nat.toDigits 16 (code.toNat / 16) ++ Nat.toDigits 16 (code.toNat % 16))

/-- A command line with its response. -/
def Line.withResponse (l : Line) (code : Byte) : String := l.text ++ " -> " ++ codeText code

end Sys2Proof.Machine
end

