-- ==== Sys2Proof/Safety.lean ====
section
/-!
DEFINITION. The terms claims are stated in: the host's duty (spec/20_memory.md R48), the invariants between commands (spec/10_state.md section 5),
what a session's registers mean in terms of its nonce, AAD and data (R28, R29, R34), and what a command leaves unchanged.
-/

namespace Sys2Proof.Machine

/-- The host's duty for one command (R48): every region the command touches is admitted. -/
abbrev HostReady (i : Instr) (s : State) : Prop := s.refusalOf (regionsOf i) = none

/-- The invariant every step keeps: the canonical memory; `FCODE` against `MODE` (R23); only the codes of R67 on the response port; R27 for
`GLEN` and `XLEN` (also once `DATALEN` has wrapped: 16 divides `2^64`); in a live session the table of R13, of `H = fe_of_block(E(zeros(16)))` for
the `E` behind the port now, which a session never sees change (R5, R196). -/
structure State.Inv (s : State) : Prop where
  memory : Memory.wf s.mem = true
  fcodeClear : s.mode ≠ .faulted → s.fcode = 0x00
  fcodeLatched : s.mode = .faulted → s.fcode ∈ faultCodes
  response : ∀ code, s.resp = some code → code ∈ responseCodes
  gbufShort : s.gbuf.length < 16
  xmShort : s.xm.length < 16
  gbufCount : s.mode.live = true → s.gbuf.length = s.datalen.toNat % 16
  xmCount : s.mode.live = true → s.xm.length = (16 - s.datalen.toNat % 16) % 16
  table : s.mode.live = true → ∀ k : Nibble, s.pt.read (bitrev4 k) = multipleOf k (feOfBlock (s.E zeroBlock))

/-- The product table of a session over the cipher `E` (R13): that of `H = fe_of_block(E(zeros(16)))`. -/
def hashTable (E : Block → Block) : ProductTable := buildTable (Vector.replicate 15 FE.zero) (feOfBlock (E zeroBlock))

/-- J0 of a session over `E` (R111). -/
def initialCounter (E : Block → Block) (nonce : Block) : Block := deriveCounter (hashTable E) nonce

/-- `KS[j]` (R34): byte `j` of `E(inc32^1(J0)) || E(inc32^2(J0)) || ...`. -/
def keystreamByte (E : Block → Block) (j0 : Block) (j : Nat) : Byte :=
  (E (inc32^[j / 16 + 1] j0))[j % 16]'(Nat.mod_lt _ (by omega))

/-- `KS[lo .. hi]` (R34). -/
def keystream (E : Block → Block) (j0 : Block) (lo hi : Nat) : List Byte :=
  (List.range (hi - lo)).map fun k => keystreamByte E j0 (lo + k)

/-- The GHASH of a session's AAD and data (R29, R102): the AAD padded to a block, then the data padded to a block. -/
def sessionHash (E : Block → Block) (aad data : List Byte) : FE :=
  update (hashTable E) (update (hashTable E) FE.zero aad) data

/-- The tag of a session as a function of `E`, the nonce, the AAD and the absorbed data (R136, R143). -/
def sessionTag (E : Block → Block) (nonce : Block) (aad data : List Byte) : Block :=
  let y := sessionHash E aad data
  let y := mul (hashTable E)
    ⟨y.low ^^^ (BitVec.ofNat 64 aad.length <<< 3), y.high ^^^ (BitVec.ofNat 64 data.length <<< 3)⟩
  xorBlock (blockOfFe y) (E (initialCounter E nonce))

/-- The registers of a live session that was given this nonce and AAD and, so far, this data (R28, R29, R34, R13, R18, R20, R21). -/
structure SessionOf (s : State) (nonce : Block) (aad data : List Byte) : Prop where
  live : s.mode.live = true
  table : s.pt = hashTable s.E
  ghash : s.gh = update s.pt (update s.pt FE.zero aad) (data.take (16 * (data.length / 16)))
  gbuf : s.gbuf = data.drop (16 * (data.length / 16))
  ctr : s.ctr = inc32^[1 + (data.length + 15) / 16] (initialCounter s.E nonce)
  tmask : s.tmask = s.E (initialCounter s.E nonce)
  xm : s.xm = keystream s.E (initialCounter s.E nonce) data.length (16 * ((data.length + 15) / 16))
  aadlen : s.aadlen = BitVec.ofNat 64 aad.length
  datalen : s.datalen = BitVec.ofNat 64 data.length

/-- Successive commands over consecutive chunks of a message at `a`, each writing its output in the same place of the output at `b` (R141). -/
def runChunks (command : Word → Word → Word → Instr) : Word → Word → List Word → State → Result
  | _, _, [], s => .next s
  | a, b, n :: ns, s =>
    match exec (command a n b) s with
    | .next t => runChunks command (a + n) (b + n) ns t
    | .fault why => .fault why
    | .refused why => .refused why

/-- Every register of spec/10_state.md is as before. -/
def SameRegisters (s t : State) : Prop :=
  t.mode = s.mode ∧ t.fcode = s.fcode ∧ t.pt = s.pt ∧ t.gh = s.gh ∧ t.gbuf = s.gbuf ∧ t.ctr = s.ctr ∧
    t.tmask = s.tmask ∧ t.xm = s.xm ∧ t.aadlen = s.aadlen ∧ t.datalen = s.datalen

/-- What belongs to the host and the platform is as before. -/
def SamePlatform (s t : State) : Prop :=
  t.inbox = s.inbox ∧ t.cipher = s.cipher ∧ t.windows = s.windows ∧ t.draws = s.draws

/-- Every byte of memory outside the region reads as before. -/
def SameOutside (r : Region) (s t : State) : Prop := ∀ a : Word, r.holds a = false → t.readByte a = s.readByte a

/-- Every byte of memory reads as before. -/
def SameMemory (s t : State) : Prop := ∀ a : Word, t.readByte a = s.readByte a

/-- `W0` is one of the six legal values (R64). -/
def legalW0 (w : Word) : Bool := decide (1 ≤ w.toNat ∧ w.toNat ≤ 6)

/-- A move that asserts reset. -/
def HostMove.assertsReset : HostMove → Bool
  | .reset => true
  | .resetDuring _ => true
  | .present _ => false
  | .poke _ _ => false
  | .connectCipher _ => false
  | .rekey _ _ => false

/-- The descriptor a move puts on the command port, to be run to its response. -/
def HostMove.descriptor : HostMove → Option Descriptor
  | .present d => some d
  | .rekey _ d => some d
  | .poke _ _ => none
  | .reset => none
  | .resetDuring _ => none
  | .connectCipher _ => none

/-- The state after the fault `code` (R166): `MODE`, `FCODE` and the response, nothing else. -/
def faultedWith (code : Byte) (s : State) : State := { s with mode := .faulted, fcode := code, resp := some code }

/-- The state after a response that changes nothing else. -/
def answeredWith (code : Byte) (s : State) : State := { s with resp := some code }

end Sys2Proof.Machine
end

