-- ==== Sys2Proof/Certificates/Slice0/Obligations.lean ====
section
/-!
DEFINITION. The statements about UGCM-CORE for the provers. Each docstring names the rule of spec/ it comes from. A statement about every state
holds for every cipher behind the port, every admission and every value of the free values.
-/

open Sys2Proof Sys2Proof.Machine

/-! ## Field arithmetic (spec/40_field_arithmetic.md, spec/10_state.md R11, R12) -/

/-- R80: the result of `bitrev4` has bit `j` of the operand in bit `3-j`; it is its own inverse, with fixed points 0, 6, 9 and 15. -/
def Obligations.BitrevReversesTheNibble : Prop :=
  (∀ i : Nibble, ∀ j < 4, (bitrev4 i).getLsbD j = i.getLsbD (3 - j)) ∧
  (∀ i : Nibble, bitrev4 (bitrev4 i) = i) ∧
  (∀ i : Nibble, bitrev4 i = i ↔ i = 0 ∨ i = 6 ∨ i = 9 ∨ i = 15)

/-- R81: `add` XORs the halves; it is commutative and associative, `add(x, x) = 0`, `add(x, 0) = x`. -/
def Obligations.AddIsFieldAddition : Prop :=
  ∀ x y z : FE, add x y = ⟨x.low ^^^ y.low, x.high ^^^ y.high⟩ ∧ add x y = add y x ∧
    add (add x y) z = add x (add y z) ∧ add x x = FE.zero ∧ add x FE.zero = x

/-- R82: on the 128-bit value `V = low * 2^64 + high`, `double` is `(V >> 1) ^ (V[0] = 1 ? 0xE1 << 120 : 0)`; as a polynomial (R12) every
coefficient moves one degree up and the one that would become `x^128` is replaced by `x^7 + x^2 + x + 1`. -/
def Obligations.DoubleMultipliesByX : Prop :=
  ∀ x : FE,
    ((double x).low ++ (double x).high : BitVec 128) =
      ((x.low ++ x.high : BitVec 128) >>> 1) ^^^ (if x.high.getLsbD 0 then (0xE1 : BitVec 128) <<< 120 else 0) ∧
    ∀ i < 128, (double x).coeff i =
      ((decide (0 < i) && x.coeff (i - 1)) ^^ (x.coeff 127 && decide (i = 0 ∨ i = 1 ∨ i = 2 ∨ i = 7)))

/-- R84: the sixteen values; `RT[8] = r`, `RT[4] = x·r`, `RT[2] = x^2·r`, `RT[1] = x^3·r` (one degree up is one bit to the right), and every
entry is the XOR of the entries of its set bits. -/
def Obligations.ReductionTableAudit : Prop :=
  (List.range 16).map (fun i => readRT (BitVec.ofNat 4 i)) =
    [0x0000, 0x1c20, 0x3840, 0x2460, 0x7080, 0x6ca0, 0x48c0, 0x54e0,
     0xe100, 0xfd20, 0xd940, 0xc560, 0x9180, 0x8da0, 0xa9c0, 0xb5e0] ∧
  readRT 4 = readRT 8 >>> 1 ∧ readRT 2 = readRT 8 >>> 2 ∧ readRT 1 = readRT 8 >>> 3 ∧
  ∀ i : Nibble, readRT i =
    (if i.getLsbD 0 then readRT 1 else 0) ^^^ (if i.getLsbD 1 then readRT 2 else 0) ^^^
      (if i.getLsbD 2 then readRT 4 else 0) ^^^ (if i.getLsbD 3 then readRT 8 else 0)

/-- R85: after `BuildTable(H)`, `PT[bitrev4(k)] = k·H` for every `k`; nothing of an earlier table survives; `PT[0]` reads zero. -/
def Obligations.BuildTableHoldsMultiples : Prop :=
  (∀ (old : ProductTable) (H : FE) (k : Nibble), (buildTable old H).read (bitrev4 k) = multipleOf k H) ∧
  (∀ (old old' : ProductTable) (H : FE), buildTable old H = buildTable old' H) ∧
  (∀ pt : ProductTable, pt.read 0 = FE.zero)

/-- 40_field_arithmetic.md (R83, R86), as a shift-and-add product over the coefficients of R12 (95_test_vectors.md section 2.5): with the table of `H`, `mul(y)` equals
`y · H` for every `y`; `mul` is linear, zero on zero, and gives `H` on the field's one. -/
def Obligations.MulIsShiftAndAddProduct : Prop :=
  ∀ (old : ProductTable) (H y z : FE),
    mul (buildTable old H) y = product y H ∧
    mul (buildTable old H) (add y z) = add (mul (buildTable old H) y) (mul (buildTable old H) z) ∧
    mul (buildTable old H) FE.zero = FE.zero ∧ mul (buildTable old H) FE.one = H

/-- R86: the field is GF(2)[x] modulo `x^128 + x^7 + x^2 + x + 1` with the coefficients of R12; in it `mul(y)` equals `y · H` for every `y`, and
`k·H` is `(k3·x^3 + k2·x^2 + k1·x + k0) · H`. -/
def Obligations.MulIsPolynomialProduct : Prop :=
  let poly : FE → Polynomial (ZMod 2) :=
    fun x => ∑ i ∈ Finset.range 128, if x.coeff i = true then Polynomial.X ^ i else 0
  let modulus : Polynomial (ZMod 2) := Polynomial.X ^ 128 + Polynomial.X ^ 7 + Polynomial.X ^ 2 + Polynomial.X + 1
  (∀ (old : ProductTable) (H y : FE), modulus ∣ poly (mul (buildTable old H) y) - poly y * poly H) ∧
  (∀ (k : Nibble) (H : FE), modulus ∣
    poly (multipleOf k H) - (∑ j ∈ Finset.range 4, if k.getLsbD j = true then Polynomial.X ^ j else 0) * poly H)

/-- R11: `fe_of_block` and `block_of_fe` are inverse to each other, and byte 0 of a block is the most significant byte of `low`, byte 8 that of
`high`, and so on down. -/
def Obligations.BlockConversionIsInverse : Prop :=
  (∀ x : FE, feOfBlock (blockOfFe x) = x) ∧ (∀ b : Block, blockOfFe (feOfBlock b) = b) ∧
  (∀ (b : Block) (i : Nat) (h : i < 8),
    b[i]'(by omega) = ((feOfBlock b).low >>> (56 - 8 * i)).setWidth 8 ∧
    b[8 + i]'(by omega) = ((feOfBlock b).high >>> (56 - 8 * i)).setWidth 8)

/-- R12 on the wire: the coefficient of `x^i` is bit `7 - i mod 8` of byte `i / 8`, so that of `x^0` is the top bit of the first byte and that of
`x^127` the bottom bit of the sixteenth; the field's one has the coefficient of `x^0` alone. -/
def Obligations.CoefficientsOnTheWire : Prop :=
  (∀ (b : Block) (i : Nat) (h : i < 128), (feOfBlock b).coeff i = (b[i / 8]'(by omega)).getLsbD (7 - i % 8)) ∧
  (∀ i < 128, FE.one.coeff i = decide (i = 0))

/-! ## GHASH (spec/41_ghash.md) -/

/-- R100: no data leaves `y` unchanged; a full block at the front is XORed in as a field element and multiplied by H, and the rest follows; a
final partial block is padded with zero bytes to sixteen and processed the same way. -/
def Obligations.UpdateAbsorbsByBlocks : Prop :=
  ∀ (pt : ProductTable) (y : FE),
    update pt y [] = y ∧
    (∀ b rest : List Byte, ∀ h : b.length = 16,
      update pt y (b ++ rest) = update pt (mul pt (add y (feOfBlock ⟨b.toArray, by simpa using h⟩))) rest) ∧
    (∀ d : List Byte, 0 < d.length → d.length < 16 →
      update pt y d = update pt y (d ++ List.replicate (16 - d.length) 0))

/-- R101: `absorb(d)` appends `d` to the waiting bytes, absorbs every completed block (`GH <- update(GH, buf[0 .. 16m])`) and leaves the rest, fewer
than sixteen bytes, in `GBUF`; nothing else changes. -/
def Obligations.AbsorbTakesWholeBlocks : Prop :=
  ∀ (s : State) (d : List Byte),
    let buf := s.gbuf ++ d
    let m := buf.length / 16
    s.absorb d = { s with gh := update s.pt s.gh (buf.take (16 * m)), gbuf := buf.drop (16 * m) } ∧
      (s.absorb d).gbuf.length = buf.length - 16 * m ∧ (s.absorb d).gbuf.length < 16

/-- R102: `ghash_flush()` is `update(GH, GBUF)`; with the AAD `A` absorbed at construction and the data given in any chunks it is
`update(update(0, A), D)`, `D` all the data. -/
def Obligations.FlushPadsTheWholeStream : Prop :=
  (∀ s : State, s.gbuf.length < 16 → s.ghashFlush = update s.pt s.gh s.gbuf) ∧
  (∀ (s : State) (A : List Byte) (chunks : List (List Byte)),
    s.gh = update s.pt FE.zero A → s.gbuf = [] →
      (chunks.foldl State.absorb s).ghashFlush = update s.pt (update s.pt FE.zero A) chunks.flatten)

/-! ## Counter keystream (spec/42_ctr_keystream.md) -/

/-- R110: bytes 0..11 are never changed, not even by a carry out of the tail; the big-endian tail is incremented by one modulo `2^32`. -/
def Obligations.IncrementMovesTheTailOnly : Prop :=
  ∀ ctr : Block,
    (∀ (i : Nat) (h : i < 12), (inc32 ctr)[i]'(by omega) = ctr[i]'(by omega)) ∧
    counterTail (inc32 ctr) = counterTail ctr + 1 ∧
    counterTail ctr =
      ((ctr[12].setWidth 32 <<< 24) ||| (ctr[13].setWidth 32 <<< 16) ||| (ctr[14].setWidth 32 <<< 8) ||| ctr[15].setWidth 32)

/-- R114, R197 (the sentence on the period): the counter block repeats after exactly `2^32` increments, wherever the tail starts. -/
def Obligations.CounterPeriod : Prop :=
  ∀ (c : Block) (k : Nat), inc32^[k] c = c ↔ 2 ^ 32 ∣ k

/-- R111: GHASH of the one nonce block, the bit length 128 into `high`, one more `mul`, written out big-endian; with H the field's one, J0 is the
nonce with `0x80` XORed into its last byte. -/
def Obligations.DeriveCounterFormula : Prop :=
  (∀ (pt : ProductTable) (nonce : Block),
    let y := mul pt (feOfBlock nonce)
    deriveCounter pt nonce = blockOfFe (mul pt ⟨y.low, y.high ^^^ 128⟩)) ∧
  (∀ (old : ProductTable) (nonce : Block),
    deriveCounter (buildTable old FE.one) nonce = nonce.set 15 (nonce[15] ^^^ 0x80))

/-- R115: for any split of an input into consecutive chunks, the concatenated outputs and the final `CTR`, `XM`, `XLEN` are those of one call on the
whole. -/
def Obligations.KeystreamIsChunkIndependent : Prop :=
  ∀ (E : Block → Block) (ctr : Block) (xm : List Byte) (chunks : List (List Byte)),
    chunks.foldl
        (fun sofar chunk =>
          let r := counterCrypt E sofar.ctr sofar.xm chunk
          ⟨sofar.out ++ r.out, r.ctr, r.xm⟩)
        (⟨[], ctr, xm⟩ : Crypted) =
      counterCrypt E ctr xm chunks.flatten

/-- R113, R115 (applying it twice undoes it): the output is as long as the input, and the same keystream positions give the input back. -/
def Obligations.KeystreamUndoesItself : Prop :=
  ∀ (E : Block → Block) (ctr : Block) (xm inp : List Byte),
    (counterCrypt E ctr xm inp).out.length = inp.length ∧
    counterCrypt E ctr xm (counterCrypt E ctr xm inp).out =
      ⟨inp, (counterCrypt E ctr xm inp).ctr, (counterCrypt E ctr xm inp).xm⟩

/-! ## Memory and operands (spec/20_memory.md) -/

/-- R41: `MemRead` gives the `n` bytes from `addr` on, ascending; `MemWrite` sets them and nothing else, for a region that does not wrap (R48); with
`n = 0` neither touches memory. The premise on the memory is the canonical form every step keeps (`StepKeepsInvariant`). -/
def Obligations.MemoryReadsBackWrites : Prop :=
  (∀ (s : State) (addr n : Word), addr.toNat + n.toNat ≤ 2 ^ 64 → (s.memRead addr n).length = n.toNat ∧
    ∀ (i : Nat) (h : i < (s.memRead addr n).length), (s.memRead addr n)[i] = s.readByte (addr + BitVec.ofNat 64 i)) ∧
  (∀ (s : State) (addr : Word) (bs : List Byte), Memory.wf s.mem = true → addr.toNat + bs.length ≤ 2 ^ 64 →
    (∀ (i : Nat) (h : i < bs.length), (s.memWrite addr bs).readByte (addr + BitVec.ofNat 64 i) = bs[i]) ∧
    (∀ a : Word, a.toNat < addr.toNat ∨ addr.toNat + bs.length ≤ a.toNat → (s.memWrite addr bs).readByte a = s.readByte a)) ∧
  (∀ (s : State) (addr : Word), s.memRead addr 0 = [] ∧ s.memWrite addr [] = s)

/-- R46 (the quoted definition): for regions that do not wrap, an inexact overlap is: the two regions share an address and do not start at the
same one. -/
def Obligations.InexactOverlapIsSharedMemory : Prop :=
  ∀ aAddr bAddr n : Word, aAddr.toNat + n.toNat ≤ 2 ^ 64 → bAddr.toNat + n.toNat ≤ 2 ^ 64 →
    (inexactOverlap aAddr bAddr n = true ↔
      aAddr ≠ bAddr ∧ ∃ x : Word, (Region.holds ⟨aAddr, n⟩ x) = true ∧ (Region.holds ⟨bAddr, n⟩ x) = true)

/-- 20_memory.md section 4 (R48): a command past its checks is refused exactly when a region of it wraps past `2^64` or is not admitted by the
platform; an empty region never stops it. The model's own: that only a command past checks 1 to 4 of R131 is refused (log entry 10, from R44: one that
fails a check touches no region), and that admission is a list of windows over an opaque predicate (log entry 2). -/
def Obligations.UnadmittedRegionIsRefused : Prop :=
  ∀ (i : Instr) (s : State),
    (∃ why, exec i s = .refused why) ↔
      (s.mode ≠ .faulted ∧ allowedIn i s.mode = true ∧ operandCheck i = .pass ∧
        ∃ r ∈ regionsOf i, r.len ≠ 0 ∧
          (2 ^ 64 < r.addr.toNat + r.len.toNat ∨
            (s.windows.any (fun w => w.covers r) = false ∧ Config.memAdmits r.addr r.len = false)))

/-- R44 (the read column): registers and response after a command, and the bytes it writes, depend on memory only through the regions of R44. -/
def Obligations.CommandReadsOnlyItsRegions : Prop :=
  ∀ (i : Instr) (s t : State) (m : Memory),
    (∀ r ∈ readRegions i, ∀ a : Word, r.holds a = true → Memory.readByte m a.toNat = s.readByte a) →
    HostReady i s → Memory.wf s.mem = true → Memory.wf m = true → exec i s = .next t →
    ∃ u, exec i { s with mem := m } = .next u ∧ SameRegisters t u ∧ u.resp = t.resp ∧
      ∀ r ∈ writeRegions i, ∀ a : Word, r.holds a = true → t.mode ≠ .faulted → u.readByte a = t.readByte a

/-! ## Encoding (spec/30_encoding.md) -/

/-- R65: a descriptor decodes to a command exactly when `W0` is one of the six values; every other one is illegal. -/
def Obligations.SixLegalDescriptors : Prop :=
  ∀ d : Descriptor,
    ((∃ i, decode d = .ok i) ↔ legalW0 d.w0 = true) ∧
    ((∃ e, decode d = .error e) ↔ d.opcode = 0x00 ∨ 0x07 ≤ d.opcode.toNat ∨ d.rsv0 ≠ 0)

/-- Sections 1 to 3 of 30_encoding.md: decoding and encoding agree in both directions, on every descriptor and every operand. -/
def Obligations.DecodeEncodeAgree : Prop :=
  ∀ (d : Descriptor) (i : Instr), decode d = .ok i ↔ encode i = d

/-- Words written out from the encoding of R60 and R64 (the first is the example of R68). -/
def Obligations.DecodeSampleWords : Prop :=
  decode ⟨0x0000000000000003, 0x0000000000002000, 0x0000000000000014, 0x0000000000003000, 0x0000000000000000⟩ =
    .ok (.encrypt 0x2000 20 0x3000 0) ∧
  decode ⟨0x0000000000000001, 0x0000000000001000, 0x0000000000000010, 0x0000000000001100, 0x0000000000000003⟩ =
    .ok (.initEnc 0x1000 16 0x1100 3) ∧
  decode ⟨0x0000000000000006, 0x0000000000006000, 0x000000000000000F, 0, 0⟩ = .ok (.verify 0x6000 15 0 0) ∧
  decode ⟨0x0000000000000103, 0x0000000000002000, 0x0000000000000004, 0x0000000000003000, 0⟩ = .error .reservedBits ∧
  decode ⟨0x0000000000000007, 0, 0, 0, 0⟩ = .error .unknownOpcode

/-- R66 with the table of R62: an operand word that a command's row marks "ignored" has no effect on the command, whatever its value. -/
def Obligations.IgnoredWordsHaveNoEffect : Prop :=
  ∀ (s : State) (aAddr aLen bAddr bLen aAddr' aLen' bAddr' bLen' : Word),
    exec (.encrypt aAddr aLen bAddr bLen) s = exec (.encrypt aAddr aLen bAddr bLen') s ∧
    exec (.decrypt aAddr aLen bAddr bLen) s = exec (.decrypt aAddr aLen bAddr bLen') s ∧
    exec (.tag aAddr aLen bAddr bLen) s = exec (.tag aAddr' aLen' bAddr bLen') s ∧
    exec (.verify aAddr aLen bAddr bLen) s = exec (.verify aAddr aLen bAddr' bLen') s

/-! ## The step -/

/-- R130, R131: presenting a descriptor that decodes to `i` runs `i` on the state with the descriptor taken from the port. -/
def Obligations.StepRunsDecodedCommand : Prop :=
  ∀ (s : State) (d : Descriptor) (rest : List HostMove) (i : Instr),
    s.inbox = .present d :: rest → decode d = .ok i → step s = exec i { s with inbox := rest }

/-- R164, R65: a descriptor that decodes to no command raises `Fault(0x82)` unless the core is already `FAULTED`. -/
def Obligations.IllegalDescriptorFaults : Prop :=
  ∀ (s : State) (d : Descriptor) (rest : List HostMove),
    s.inbox = .present d :: rest → legalW0 d.w0 = false → s.mode ≠ .faulted →
      step s = .next (faultedWith 0x82 { s with inbox := rest })

/-- Section 5 of 00_scope.md, section 7 of 60_exceptions.md, sections 2 and 3 of 70_reset_and_hazards.md: with nothing presented the core keeps all state; a byte the
host writes and a cipher the platform connects change no register; `E` changes in a live session only with the `INIT_*` that starts the next one, and a
move that would change it otherwise is refused (93_implementation_defined.md U9). The model's own: how moves reach the step (log entry 6), that
the response port keeps its code between commands (log entry 7), and the form of the two moves on the cipher port (log entry 12). -/
def Obligations.IdleAndHostMoves : Prop :=
  (∀ s : State, s.inbox = [] → step s = .next s) ∧
  (∀ (s : State) (addr : Word) (v : Byte) (rest : List HostMove), Memory.wf s.mem = true → s.inbox = .poke addr v :: rest →
    ∃ t, step s = .next t ∧ SameRegisters s t ∧ t.resp = s.resp ∧ t.inbox = rest ∧ t.readByte addr = v ∧
      ∀ a : Word, a ≠ addr → t.readByte a = s.readByte a) ∧
  (∀ (s : State) (port : CipherPort) (rest : List HostMove), s.inbox = .connectCipher port :: rest →
    (s.mode.live = false → step s = .next { s with cipher := port, inbox := rest }) ∧
    (s.mode.live = true → port ≠ s.cipher → step s = .refused .cipherFixedInSession)) ∧
  (∀ (s : State) (port : CipherPort) (d : Descriptor) (i : Instr) (rest : List HostMove), s.inbox = .rekey port d :: rest → decode d = .ok i →
    (isInit i = true → step s = exec i { s with cipher := port, inbox := rest }) ∧
    (s.mode.live = true → isInit i = false → port ≠ s.cipher → step s = .refused .cipherFixedInSession)) ∧
  (∀ s t : State, s.mode.live = true → step s = .next t → t.cipher ≠ s.cipher →
    ∃ port d rest i, s.inbox = .rekey port d :: rest ∧ decode d = .ok i ∧ isInit i = true)

/-- 43_session_commands.md R131 and 60_exceptions.md R168: at most one event is reported per command, chosen by the order of the checks, read off the
descriptor's words and `MODE` alone; a command past all checks is refused for a region (R48) or runs and leaves the core unfaulted. -/
def Obligations.ChecksDecideInOrder : Prop :=
  ∀ (s : State) (d : Descriptor) (rest : List HostMove), s.inbox = .present d :: rest →
    let s' := { s with inbox := rest }
    if s.mode = .faulted then step s = .next (answeredWith s.fcode s')
    else if legalW0 d.w0 = false then step s = .next (faultedWith 0x82 s')
    else if (d.w0 = 3 ∧ s.mode ≠ .enc) ∨ (d.w0 = 4 ∧ s.mode ≠ .dec) ∨ (d.w0 = 5 ∧ s.mode = .idle) ∨ (d.w0 = 6 ∧ s.mode ≠ .dec) then
      step s = .next (faultedWith 0x83 s')
    else if (d.w0 = 1 ∨ d.w0 = 2) ∧ d.w2 ≠ 16 then step s = .next (faultedWith 0x80 s')
    else if (d.w0 = 3 ∨ d.w0 = 4) ∧ inexactOverlap d.w1 d.w3 d.w2 = true then step s = .next (faultedWith 0x81 s')
    else if d.w0 = 6 ∧ d.w2 ≠ 16 then step s = .next (answeredWith 0x01 s')
    else (∃ why, step s = .refused why) ∨
      (∃ t, step s = .next t ∧ t.mode ≠ .faulted ∧ (t.resp = some 0x00 ∨ (d.w0 = 6 ∧ t.resp = some 0x01)))

/-! ## Faults (spec/60_exceptions.md) -/

/-- R165 with R166: `ENCRYPT` in `IDLE` or `DEC`, `DECRYPT` in `IDLE` or `ENC`, `TAG` in `IDLE`, `VERIFY` in `IDLE` or `ENC` raise `Fault(0x83)`: `MODE`, `FCODE`
and the response, no other register, no byte of memory. -/
def Obligations.RoleViolationFaults : Prop :=
  ∀ (s : State) (aAddr aLen bAddr bLen : Word),
    (s.mode = .idle ∨ s.mode = .dec → exec (.encrypt aAddr aLen bAddr bLen) s = .next (faultedWith 0x83 s)) ∧
    (s.mode = .idle ∨ s.mode = .enc → exec (.decrypt aAddr aLen bAddr bLen) s = .next (faultedWith 0x83 s)) ∧
    (s.mode = .idle → exec (.tag aAddr aLen bAddr bLen) s = .next (faultedWith 0x83 s)) ∧
    (s.mode = .idle ∨ s.mode = .enc → exec (.verify aAddr aLen bAddr bLen) s = .next (faultedWith 0x83 s))

/-- R161 with R166: `INIT_ENC` or `INIT_DEC` with `A_LEN != 16` raises `Fault(0x80)`; the nonce region is not read, so it need not be admitted. -/
def Obligations.WrongNonceLengthFaults : Prop :=
  ∀ (s : State) (aAddr aLen bAddr bLen : Word), s.mode ≠ .faulted → aLen ≠ 16 →
    exec (.initEnc aAddr aLen bAddr bLen) s = .next (faultedWith 0x80 s) ∧
    exec (.initDec aAddr aLen bAddr bLen) s = .next (faultedWith 0x80 s)

/-- R162 with R166: `ENCRYPT` or `DECRYPT` whose regions satisfy `InexactOverlap` raises `Fault(0x81)` before reading, writing or updating anything;
exact aliasing is no fault. -/
def Obligations.InexactAliasingFaults : Prop :=
  ∀ (s : State) (aAddr aLen bAddr bLen : Word),
    (s.mode = .enc → inexactOverlap aAddr bAddr aLen = true →
      exec (.encrypt aAddr aLen bAddr bLen) s = .next (faultedWith 0x81 s)) ∧
    (s.mode = .dec → inexactOverlap aAddr bAddr aLen = true →
      exec (.decrypt aAddr aLen bAddr bLen) s = .next (faultedWith 0x81 s)) ∧
    inexactOverlap aAddr aAddr aLen = false

/-- R163: `AuthFailure` is the response `0x01` of `VERIFY` and nothing else: no register and no memory byte changes, `MODE` stays `DEC`. It is
answered for a wrong length, and for a candidate that does not match. -/
def Obligations.AuthFailureDisturbsNothing : Prop :=
  ∀ (s : State) (aAddr aLen bAddr bLen : Word), s.mode = .dec →
    (aLen ≠ 16 → exec (.verify aAddr aLen bAddr bLen) s = .next (answeredWith 0x01 s)) ∧
    (aLen = 16 → HostReady (.verify aAddr aLen bAddr bLen) s → s.memRead aAddr 16 ≠ s.tagValue.toList →
      exec (.verify aAddr aLen bAddr bLen) s = .next (answeredWith 0x01 s))

/-- R167: in `FAULTED` every command, legal or not, has no effect and is answered with the latched `FCODE`; only reset leaves `FAULTED`. -/
def Obligations.FaultedIsSticky : Prop :=
  (∀ (s : State) (d : Descriptor) (rest : List HostMove), s.mode = .faulted → s.inbox = .present d :: rest →
    step s = .next (answeredWith s.fcode { s with inbox := rest })) ∧
  (∀ (i : Instr) (s : State), s.mode = .faulted → exec i s = .next (answeredWith s.fcode s)) ∧
  (∀ s t : State, s.mode = .faulted → step s = .next t →
    (∃ move rest, s.inbox = move :: rest ∧ move.assertsReset = true) ∨ (t.mode = .faulted ∧ t.fcode = s.fcode))

/-- R160: the fatal outcomes are a function of the descriptor and of `MODE` alone, never of data, memory contents or `E`. -/
def Obligations.FaultsDependOnDescriptorAndMode : Prop :=
  ∀ (i : Instr) (s s' t : State), s.mode = s'.mode → s.mode ≠ .faulted → exec i s = .next t → t.mode = .faulted →
    ∃ t', exec i s' = .next t' ∧ t'.mode = .faulted ∧ t'.fcode = t.fcode ∧ t'.resp = t.resp

/-- R67: every command ends with exactly one response; which code comes from which command; bit 7 set means a fatal fault, latched in `FCODE`. -/
def Obligations.ResponseCodes : Prop :=
  ∀ (i : Instr) (s t : State), s.mode ≠ .faulted → exec i s = .next t →
    ∃ code, t.resp = some code ∧
      (code = 0x00 ∨ (code = 0x01 ∧ ∃ a n b m, i = .verify a n b m) ∨ (code = 0x80 ∧ isInit i = true) ∨
        (code = 0x81 ∧ ∃ a n b m, i = .encrypt a n b m ∨ i = .decrypt a n b m) ∨ (code = 0x83 ∧ isInit i = false)) ∧
      (isFatal code = true ↔ t.mode = .faulted) ∧ (isFatal code = true → t.fcode = code) ∧
      (isFatal code = false → t.fcode = s.fcode)

/-- R172 and R48: apart from the events of R160 and the host's duty no command can fail; with its regions admitted every command completes. -/
def Obligations.AdmittedCommandsComplete : Prop :=
  ∀ (i : Instr) (s : State), HostReady i s → ∃ t, exec i s = .next t

/-! ## Reset (spec/10_state.md section 7, spec/70_reset_and_hazards.md) -/

/-- 10_state.md section 7: the values the spec gives for reset: `MODE = IDLE`, `FCODE = 0x00`, `GLEN = 0`, `XLEN = 0`, `PT[0]` zero. (The other registers'
values at `State.reset` are the model's choice, log entry 4, and are not stated.) -/
def Obligations.ResetControlRegisters : Prop :=
  State.reset.mode = .idle ∧ State.reset.mode.code = 0 ∧ State.reset.fcode = 0x00 ∧ State.reset.glen = 0 ∧
    State.reset.xlen = 0 ∧ State.reset.pt.read 0 = FE.zero

/-- 70_reset_and_hazards.md section 1: asserting reset, in any `MODE`, puts the control registers at their reset values and does not touch `MEM`. The
other registers are left free (log entry 8): nothing is stated of them. -/
def Obligations.ResetMoveRecovers : Prop :=
  ∀ (s : State) (rest : List HostMove), s.inbox = .reset :: rest →
    ∃ t, step s = .next t ∧ t.mode = .idle ∧ t.fcode = 0x00 ∧ t.glen = 0 ∧ t.xlen = 0 ∧ t.gbuf = [] ∧ t.xm = [] ∧
      SameMemory s t ∧ t.inbox = rest ∧ t.cipher = s.cipher ∧ t.windows = s.windows

/-- 70_reset_and_hazards.md section 1: a reset that interrupts a command abandons it without a response; memory is as before outside the command's
output region, whose bytes are free (log entry 9). The model's own: that the response port then holds nothing (`resp = none`, log entry 7), and that
all of memory is as before when the command has failed one of its checks (log entry 9, DEDUCED from 20_memory.md section 2: such a command makes no
memory access). -/
def Obligations.ResetDuringCommandAbandonsIt : Prop :=
  ∀ (s : State) (d : Descriptor) (rest : List HostMove), s.inbox = .resetDuring d :: rest →
    (∀ i, decode d = .ok i → HostReady i s) →
    ∃ t, step s = .next t ∧ t.mode = .idle ∧ t.fcode = 0x00 ∧ t.glen = 0 ∧ t.xlen = 0 ∧ t.resp = none ∧ t.inbox = rest ∧
      (∀ a : Word, (∀ i, decode d = .ok i → ∀ r ∈ writeRegions i, r.holds a = false) → t.readByte a = s.readByte a) ∧
      ((∀ i, decode d = .ok i → s.mode = .faulted ∨ allowedIn i s.mode = false ∨ operandCheck i ≠ .pass) → SameMemory s t)

/-! ## Construction (spec/43_session_commands.md section 2) -/

/-- R132: `INIT_ENC` with a 16-byte nonce and admitted regions completes in `IDLE`, `ENC` and `DEC` alike: the table of `H = fe_of_block(E(zeros(16)))`, `GH` the GHASH of
the AAD, `GBUF` and `XM` empty, the lengths, `TMASK = E(J0)`, `CTR = inc32(J0)`, `MODE = ENC`, `OK`; `FCODE` and memory as before. -/
def Obligations.InitEncBuildsSession : Prop :=
  ∀ (s : State) (aAddr bAddr bLen : Word), s.mode ≠ .faulted → HostReady (.initEnc aAddr 16 bAddr bLen) s →
    ∃ t, exec (.initEnc aAddr 16 bAddr bLen) s = .next t ∧
      (∀ k : Nibble, t.pt.read (bitrev4 k) = multipleOf k (feOfBlock (s.E zeroBlock))) ∧
      t.gh = update t.pt FE.zero (s.memRead bAddr bLen) ∧ t.gbuf = [] ∧ t.aadlen = bLen ∧ t.datalen = 0 ∧
      t.tmask = s.E (deriveCounter t.pt (pad16 (s.memRead aAddr 16))) ∧
      t.ctr = inc32 (deriveCounter t.pt (pad16 (s.memRead aAddr 16))) ∧ t.xm = [] ∧
      t.mode = .enc ∧ t.fcode = s.fcode ∧ t.resp = some 0x00 ∧ SameMemory s t ∧ SamePlatform s t

/-- R133: given the same state and operands, `INIT_DEC` completes exactly as `INIT_ENC` and leaves identical values in every register except `MODE`. -/
def Obligations.InitDecDiffersInRoleOnly : Prop :=
  ∀ (s : State) (aAddr bAddr bLen : Word), s.mode ≠ .faulted → HostReady (.initDec aAddr 16 bAddr bLen) s →
    ∃ t, exec (.initEnc aAddr 16 bAddr bLen) s = .next t ∧
      exec (.initDec aAddr 16 bAddr bLen) s = .next { t with mode := .dec }

/-- 43_session_commands.md section 2 (R132, corner cases; R198): nothing of an earlier session survives `INIT_*`: two cores that agree on memory, cipher and platform
hold the same registers afterwards, whatever sessions they held. -/
def Obligations.InitForgetsEarlierSession : Prop :=
  ∀ (i : Instr) (s s' t t' : State), isInit i = true → operandCheck i = .pass → s.mode ≠ .faulted → s'.mode ≠ .faulted →
    s.fcode = s'.fcode → s.mem = s'.mem → SamePlatform s s' → exec i s = .next t → exec i s' = .next t' → t = t'

/-- R28, R29, R34 at construction: after `INIT_ENC` or `INIT_DEC` the registers are those of a session over the nonce and AAD in memory with no
data yet. -/
def Obligations.InitStartsTrackedSession : Prop :=
  ∀ (s : State) (aAddr bAddr bLen : Word), s.mode ≠ .faulted → HostReady (.initEnc aAddr 16 bAddr bLen) s →
    (∃ t, exec (.initEnc aAddr 16 bAddr bLen) s = .next t ∧
      SessionOf t (pad16 (s.memRead aAddr 16)) (s.memRead bAddr bLen) []) ∧
    (∃ t, exec (.initDec aAddr 16 bAddr bLen) s = .next t ∧
      SessionOf t (pad16 (s.memRead aAddr 16)) (s.memRead bAddr bLen) [])

/-! ## Data commands (spec/43_session_commands.md section 3) -/

/-- R134, R53: `ENCRYPT` in `ENC`, regions not overlapping inexactly and admitted, completes: the input bytes as read before the write are absorbed, `DATALEN` grows by
`A_LEN` modulo `2^64`, the input XOR keystream is written to exactly `A_LEN` bytes at `B_ADDR`, the answer is `OK`; every other register, byte and platform field is as
before. -/
def Obligations.EncryptResult : Prop :=
  ∀ (s : State) (aAddr aLen bAddr bLen : Word), s.mode = .enc → Memory.wf s.mem = true →
    inexactOverlap aAddr bAddr aLen = false → HostReady (.encrypt aAddr aLen bAddr bLen) s →
    let inp := s.memRead aAddr aLen
    let r := counterCrypt s.E s.ctr s.xm inp
    ∃ t, exec (.encrypt aAddr aLen bAddr bLen) s = .next t ∧
      t.gh = (s.absorb inp).gh ∧ t.gbuf = (s.absorb inp).gbuf ∧ t.datalen = s.datalen + aLen ∧ t.ctr = r.ctr ∧ t.xm = r.xm ∧
      t.memRead bAddr aLen = r.out ∧ SameOutside ⟨bAddr, aLen⟩ s t ∧
      t.mode = .enc ∧ t.fcode = s.fcode ∧ t.pt = s.pt ∧ t.tmask = s.tmask ∧ t.aadlen = s.aadlen ∧
      t.resp = some 0x00 ∧ SamePlatform s t

/-- R135, R53, R145: `DECRYPT` in `DEC` completes under the same conditions with the same effect: the ciphertext bytes are absorbed and the plaintext is written at
once, whatever any tag is. -/
def Obligations.DecryptResult : Prop :=
  ∀ (s : State) (aAddr aLen bAddr bLen : Word), s.mode = .dec → Memory.wf s.mem = true →
    inexactOverlap aAddr bAddr aLen = false → HostReady (.decrypt aAddr aLen bAddr bLen) s →
    let inp := s.memRead aAddr aLen
    let r := counterCrypt s.E s.ctr s.xm inp
    ∃ t, exec (.decrypt aAddr aLen bAddr bLen) s = .next t ∧
      t.gh = (s.absorb inp).gh ∧ t.gbuf = (s.absorb inp).gbuf ∧ t.datalen = s.datalen + aLen ∧ t.ctr = r.ctr ∧ t.xm = r.xm ∧
      t.memRead bAddr aLen = r.out ∧ SameOutside ⟨bAddr, aLen⟩ s t ∧
      t.mode = .dec ∧ t.fcode = s.fcode ∧ t.pt = s.pt ∧ t.tmask = s.tmask ∧ t.aadlen = s.aadlen ∧
      t.resp = some 0x00 ∧ SamePlatform s t

/-- R140 (first sentence): the only difference between `ENCRYPT` and `DECRYPT` is the mode in which each is allowed. -/
def Obligations.DecryptIsEncryptInTheOtherMode : Prop :=
  ∀ (s : State) (aAddr aLen bAddr bLen : Word), s.mode = .enc → inexactOverlap aAddr bAddr aLen = false →
    HostReady (.encrypt aAddr aLen bAddr bLen) s →
    ∃ t, exec (.encrypt aAddr aLen bAddr bLen) s = .next t ∧
      exec (.decrypt aAddr aLen bAddr bLen) { s with mode := .dec } = .next { t with mode := .dec }

/-- 43_session_commands.md section 3 (R134, corner cases): `A_LEN = 0` succeeds whatever the two addresses are, and changes no register and no memory. The premise is
R27, which every step keeps (`StepKeepsInvariant`). -/
def Obligations.EmptyDataChangesNothing : Prop :=
  ∀ (s : State) (aAddr bAddr bLen : Word), s.gbuf.length < 16 →
    (s.mode = .enc → exec (.encrypt aAddr 0 bAddr bLen) s = .next (answeredWith 0x00 s)) ∧
    (s.mode = .dec → exec (.decrypt aAddr 0 bAddr bLen) s = .next (answeredWith 0x00 s))

/-- R28, R29, R34, as an invariant of every step: in a session with data `D` so far, any step without a reset, an `INIT_*` or a fault leaves the session with
`D` and perhaps more data; a data command leaves it with `D || inp`, and byte `k` of its output is byte `k` of its input XOR `KS[len(D) + k]`. That the
port keeps the session's cipher at every such step rests on the refusals of log entry 12. -/
def Obligations.DataExtendsTrackedSession : Prop :=
  (∀ (s t : State) (nonce : Block) (aad data : List Byte),
    SessionOf s nonce aad data → step s = .next t → t.mode ≠ .faulted →
    (∀ move rest, s.inbox = move :: rest → move.assertsReset = false ∧
      ∀ d i, move.descriptor = some d → decode d = .ok i → isInit i = false) →
    ∃ more : List Byte, SessionOf t nonce aad (data ++ more)) ∧
  ∀ (s : State) (nonce : Block) (aad data : List Byte) (aAddr aLen bAddr bLen : Word),
    SessionOf s nonce aad data → Memory.wf s.mem = true → inexactOverlap aAddr bAddr aLen = false →
    HostReady (.encrypt aAddr aLen bAddr bLen) s →
    let inp := s.memRead aAddr aLen
    let out := xorBytes inp (keystream s.E (initialCounter s.E nonce) data.length (data.length + inp.length))
    (s.mode = .enc → ∃ t, exec (.encrypt aAddr aLen bAddr bLen) s = .next t ∧
      SessionOf t nonce aad (data ++ inp) ∧ t.memRead bAddr aLen = out) ∧
    (s.mode = .dec → ∃ t, exec (.decrypt aAddr aLen bAddr bLen) s = .next t ∧
      SessionOf t nonce aad (data ++ inp) ∧ t.memRead bAddr aLen = out)

/-- 43_session_commands.md section 6 (R141), the chunks consecutive in one input and one output buffer: for any way of cutting a message into consecutive
chunks, given to successive `ENCRYPT` commands of one session (respectively `DECRYPT`), memory and all registers end as after one command on all of
it, and so does `TagValue()`. Chunks placed elsewhere are covered by `DataExtendsTrackedSession`. -/
def Obligations.ChunkIndependence : Prop :=
  ∀ (s : State) (a b : Word) (ns : List Word), ns ≠ [] → Memory.wf s.mem = true → (ns.map BitVec.toNat).sum < 2 ^ 64 →
    inexactOverlap a b ns.sum = false → HostReady (.encrypt a ns.sum b 0) s →
    (∀ before n after, ns = before ++ n :: after → HostReady (.encrypt (a + before.sum) n (b + before.sum) 0) s) →
    (s.mode = .enc → ∃ u, runChunks (fun x n y => .encrypt x n y 0) a b ns s = .next u ∧
      exec (.encrypt a ns.sum b 0) s = .next u) ∧
    (s.mode = .dec → ∃ u, runChunks (fun x n y => .decrypt x n y 0) a b ns s = .next u ∧
      exec (.decrypt a ns.sum b 0) s = .next u)

/-- 43_session_commands.md section 6 (R142, data only): an encrypter and a decrypter session over the same `E` and nonce, with as much data so far; given the encrypter's output
the decrypter writes the encrypter's input, byte for byte. Nothing is stated of the tags, which differ in general (90_conflicts.md C4). -/
def Obligations.DecryptUndoesEncrypt : Prop :=
  ∀ (s s' t : State) (nonce : Block) (aad aad' data data' : List Byte) (a b c d n x y : Word),
    SessionOf s nonce aad data → SessionOf s' nonce aad' data' → s.mode = .enc → s'.mode = .dec → s'.cipher = s.cipher →
    data'.length = data.length → Memory.wf s.mem = true → Memory.wf s'.mem = true →
    inexactOverlap a b n = false → inexactOverlap c d n = false →
    HostReady (.encrypt a n b x) s → HostReady (.decrypt c n d y) s' →
    exec (.encrypt a n b x) s = .next t → s'.memRead c n = t.memRead b n →
    ∃ u, exec (.decrypt c n d y) s' = .next u ∧ u.memRead d n = s.memRead a n

/-! ## Tag and verification (spec/43_session_commands.md section 4) -/

/-- R137 with R136: `TAG` in `ENC` or `DEC`, its region admitted, completes: the sixteen bytes at `B_ADDR` are `block_of_fe(mul(y)) xor TMASK`, `y` the flushed copy of `GH` with
the bit lengths XORed into its halves; no register changes, no other byte does. -/
def Obligations.TagWritesTagValue : Prop :=
  ∀ (s : State) (aAddr aLen bAddr bLen : Word), s.mode = .enc ∨ s.mode = .dec → Memory.wf s.mem = true →
    HostReady (.tag aAddr aLen bAddr bLen) s →
    let flush := if s.gbuf.length = 0 then s.gh else mul s.pt (add s.gh (feOfBlock (pad16 s.gbuf)))
    let y := mul s.pt ⟨flush.low ^^^ (s.aadlen <<< 3), flush.high ^^^ (s.datalen <<< 3)⟩
    ∃ t, exec (.tag aAddr aLen bAddr bLen) s = .next t ∧
      t.memRead bAddr 16 = xorBytes (blockOfFe y).toList s.tmask.toList ∧
      SameRegisters s t ∧ SameOutside ⟨bAddr, 16⟩ s t ∧ t.resp = some 0x00 ∧ SamePlatform s t

/-- 43_session_commands.md section 4 (R136, corner cases; R200): a session with no AAD and no data has the tag `TMASK`; `TAG` and `VERIFY` leave `TagValue()` as it was, so they
may be repeated. -/
def Obligations.TagIsRepeatable : Prop :=
  (∀ s : State, s.gh = FE.zero → s.gbuf = [] → s.aadlen = 0 → s.datalen = 0 → s.tagValue = s.tmask) ∧
  (∀ (s t : State) (aAddr aLen bAddr bLen : Word), s.mode.live = true → exec (.tag aAddr aLen bAddr bLen) s = .next t →
    t.tagValue = s.tagValue ∧ t.mode = s.mode) ∧
  (∀ (s t : State) (aAddr aLen bAddr bLen : Word), s.mode = .dec → exec (.verify aAddr aLen bAddr bLen) s = .next t →
    t.tagValue = s.tagValue ∧ t.mode = s.mode)

/-- R143: the tag is a function of `E`, the nonce, the AAD and the absorbed data alone, and `TAG` writes it. -/
def Obligations.SessionTagIsDetermined : Prop :=
  (∀ (s : State) (nonce : Block) (aad data : List Byte), SessionOf s nonce aad data → s.tagValue = sessionTag s.E nonce aad data) ∧
  (∀ (s s' : State) (nonce : Block) (aad data : List Byte), SessionOf s nonce aad data → SessionOf s' nonce aad data →
    s.E = s'.E → s.tagValue = s'.tagValue)

/-- R138: `VERIFY` in `DEC` with a 16-byte candidate, its region admitted, completes: `OK` when the candidate equals `TagValue()`, else `AUTH_FAILURE`; no register and no
byte of memory changes. -/
def Obligations.VerifyAnswers : Prop :=
  ∀ (s : State) (aAddr bAddr bLen : Word), s.mode = .dec → HostReady (.verify aAddr 16 bAddr bLen) s →
    ∃ t, exec (.verify aAddr 16 bAddr bLen) s = .next t ∧
      (s.memRead aAddr 16 = s.tagValue.toList → t.resp = some 0x00) ∧
      (s.memRead aAddr 16 ≠ s.tagValue.toList → t.resp = some 0x01) ∧
      SameRegisters s t ∧ SameMemory s t ∧ SamePlatform s t

/-- R144: `VERIFY` with a 16-byte candidate `c` answers `OK` exactly when `c = TagValue()`; flipping any single bit of the tag is answered with `AUTH_FAILURE`. -/
def Obligations.VerifyIsSound : Prop :=
  ∀ (s : State) (aAddr bAddr bLen : Word) (c : Block), s.mode = .dec → HostReady (.verify aAddr 16 bAddr bLen) s →
    s.memRead aAddr 16 = c.toList →
    ∃ t, exec (.verify aAddr 16 bAddr bLen) s = .next t ∧ (t.resp = some 0x00 ↔ c = s.tagValue) ∧
      ∀ (i bit : Nat) (h : i < 16), bit < 8 → c = s.tagValue.set i (s.tagValue[i] ^^^ ((1 : Byte) <<< bit)) → t.resp = some 0x01

/-! ## The session state machine and the invariants -/

/-- R139: the transitions of `MODE` on a command that gives a next state. -/
def Obligations.ModeTransitions : Prop :=
  ∀ (i : Instr) (s t : State), exec i s = .next t →
    (s.mode = .faulted → t.mode = .faulted) ∧
    (s.mode ≠ .faulted → t.mode ≠ .faulted →
      match i with
      | .initEnc _ aLen _ _ => aLen = 16 ∧ t.mode = .enc
      | .initDec _ aLen _ _ => aLen = 16 ∧ t.mode = .dec
      | .encrypt aAddr aLen bAddr _ => inexactOverlap aAddr bAddr aLen = false ∧ s.mode = .enc ∧ t.mode = .enc
      | .decrypt aAddr aLen bAddr _ => inexactOverlap aAddr bAddr aLen = false ∧ s.mode = .dec ∧ t.mode = .dec
      | .tag _ _ _ _ => s.mode.live = true ∧ t.mode = s.mode
      | .verify _ _ _ _ => s.mode = .dec ∧ t.mode = .dec) ∧
    (s.mode ≠ .faulted → t.mode = .faulted → t = faultedWith t.fcode s ∧ t.fcode ∈ faultCodes)

/-- R30: `TMASK`, `PT[1..15]`, `AADLEN` and bytes 0..11 of `CTR` do not change in a live session until the next `INIT_*`, fault or reset. -/
def Obligations.SessionConstantsAreFixed : Prop :=
  ∀ s t : State, s.mode.live = true → step s = .next t →
    (∀ move rest, s.inbox = move :: rest → move.assertsReset = false ∧
      ∀ d i, move.descriptor = some d → decode d = .ok i → isInit i = false) →
    t.tmask = s.tmask ∧ t.pt = s.pt ∧ t.aadlen = s.aadlen ∧ counterHead t.ctr = counterHead s.ctr

/-- The state after reset meets the invariant, whatever the registers hold that log entry 4 chose; the response port is empty there (log entry 7). -/
def Obligations.ResetMeetsInvariant : Prop := State.reset.Inv

/-- 10_state.md R13 (with `H` of the `E` behind the port, R5), R23, R27 and the canonical memory: from every state that meets the invariant,
whatever move comes next, a step gives a state that meets it. That the port changes in no other way within a session rests on the refusals of log
entry 12. -/
def Obligations.StepKeepsInvariant : Prop :=
  ∀ s t : State, s.Inv → step s = .next t → t.Inv
end

