-- ==== Sys2Proof/Laws/State.lean ====
section
/-!
SUPPORT. One lemma per field per state update, each true by rfl, or by the lemmas of the updates it is made of: what an update writes and what it leaves, so that no later proof unfolds a record.
-/

namespace Sys2Proof.Machine

variable (s : State)

/-! ### respond -/

@[simp] theorem State.respond_mode (code : Byte) : (s.respond code).mode = s.mode := rfl
@[simp] theorem State.respond_fcode (code : Byte) : (s.respond code).fcode = s.fcode := rfl
@[simp] theorem State.respond_pt (code : Byte) : (s.respond code).pt = s.pt := rfl
@[simp] theorem State.respond_gh (code : Byte) : (s.respond code).gh = s.gh := rfl
@[simp] theorem State.respond_gbuf (code : Byte) : (s.respond code).gbuf = s.gbuf := rfl
@[simp] theorem State.respond_ctr (code : Byte) : (s.respond code).ctr = s.ctr := rfl
@[simp] theorem State.respond_tmask (code : Byte) : (s.respond code).tmask = s.tmask := rfl
@[simp] theorem State.respond_xm (code : Byte) : (s.respond code).xm = s.xm := rfl
@[simp] theorem State.respond_aadlen (code : Byte) : (s.respond code).aadlen = s.aadlen := rfl
@[simp] theorem State.respond_datalen (code : Byte) : (s.respond code).datalen = s.datalen := rfl
@[simp] theorem State.respond_mem (code : Byte) : (s.respond code).mem = s.mem := rfl
@[simp] theorem State.respond_resp (code : Byte) : (s.respond code).resp = some code := rfl
@[simp] theorem State.respond_inbox (code : Byte) : (s.respond code).inbox = s.inbox := rfl
@[simp] theorem State.respond_cipher (code : Byte) : (s.respond code).cipher = s.cipher := rfl
@[simp] theorem State.respond_windows (code : Byte) : (s.respond code).windows = s.windows := rfl
@[simp] theorem State.respond_draws (code : Byte) : (s.respond code).draws = s.draws := rfl

/-! ### raiseFault -/

@[simp] theorem State.raiseFault_mode (code : Byte) : (s.raiseFault code).mode = .faulted := rfl
@[simp] theorem State.raiseFault_fcode (code : Byte) : (s.raiseFault code).fcode = code := rfl
@[simp] theorem State.raiseFault_pt (code : Byte) : (s.raiseFault code).pt = s.pt := rfl
@[simp] theorem State.raiseFault_gh (code : Byte) : (s.raiseFault code).gh = s.gh := rfl
@[simp] theorem State.raiseFault_gbuf (code : Byte) : (s.raiseFault code).gbuf = s.gbuf := rfl
@[simp] theorem State.raiseFault_ctr (code : Byte) : (s.raiseFault code).ctr = s.ctr := rfl
@[simp] theorem State.raiseFault_tmask (code : Byte) : (s.raiseFault code).tmask = s.tmask := rfl
@[simp] theorem State.raiseFault_xm (code : Byte) : (s.raiseFault code).xm = s.xm := rfl
@[simp] theorem State.raiseFault_aadlen (code : Byte) : (s.raiseFault code).aadlen = s.aadlen := rfl
@[simp] theorem State.raiseFault_datalen (code : Byte) : (s.raiseFault code).datalen = s.datalen := rfl
@[simp] theorem State.raiseFault_mem (code : Byte) : (s.raiseFault code).mem = s.mem := rfl
@[simp] theorem State.raiseFault_resp (code : Byte) : (s.raiseFault code).resp = some code := rfl
@[simp] theorem State.raiseFault_inbox (code : Byte) : (s.raiseFault code).inbox = s.inbox := rfl
@[simp] theorem State.raiseFault_cipher (code : Byte) : (s.raiseFault code).cipher = s.cipher := rfl
@[simp] theorem State.raiseFault_windows (code : Byte) : (s.raiseFault code).windows = s.windows := rfl
@[simp] theorem State.raiseFault_draws (code : Byte) : (s.raiseFault code).draws = s.draws := rfl

/-! ### answerLatched -/

@[simp] theorem State.answerLatched_mode : (s.answerLatched).mode = s.mode := rfl
@[simp] theorem State.answerLatched_fcode : (s.answerLatched).fcode = s.fcode := rfl
@[simp] theorem State.answerLatched_pt : (s.answerLatched).pt = s.pt := rfl
@[simp] theorem State.answerLatched_gh : (s.answerLatched).gh = s.gh := rfl
@[simp] theorem State.answerLatched_gbuf : (s.answerLatched).gbuf = s.gbuf := rfl
@[simp] theorem State.answerLatched_ctr : (s.answerLatched).ctr = s.ctr := rfl
@[simp] theorem State.answerLatched_tmask : (s.answerLatched).tmask = s.tmask := rfl
@[simp] theorem State.answerLatched_xm : (s.answerLatched).xm = s.xm := rfl
@[simp] theorem State.answerLatched_aadlen : (s.answerLatched).aadlen = s.aadlen := rfl
@[simp] theorem State.answerLatched_datalen : (s.answerLatched).datalen = s.datalen := rfl
@[simp] theorem State.answerLatched_mem : (s.answerLatched).mem = s.mem := rfl
@[simp] theorem State.answerLatched_resp : (s.answerLatched).resp = some s.fcode := rfl
@[simp] theorem State.answerLatched_inbox : (s.answerLatched).inbox = s.inbox := rfl
@[simp] theorem State.answerLatched_cipher : (s.answerLatched).cipher = s.cipher := rfl
@[simp] theorem State.answerLatched_windows : (s.answerLatched).windows = s.windows := rfl
@[simp] theorem State.answerLatched_draws : (s.answerLatched).draws = s.draws := rfl

/-! ### memWrite -/

@[simp] theorem State.memWrite_mode (addr : Word) (bs : List Byte) : (s.memWrite addr bs).mode = s.mode := rfl
@[simp] theorem State.memWrite_fcode (addr : Word) (bs : List Byte) : (s.memWrite addr bs).fcode = s.fcode := rfl
@[simp] theorem State.memWrite_pt (addr : Word) (bs : List Byte) : (s.memWrite addr bs).pt = s.pt := rfl
@[simp] theorem State.memWrite_gh (addr : Word) (bs : List Byte) : (s.memWrite addr bs).gh = s.gh := rfl
@[simp] theorem State.memWrite_gbuf (addr : Word) (bs : List Byte) : (s.memWrite addr bs).gbuf = s.gbuf := rfl
@[simp] theorem State.memWrite_ctr (addr : Word) (bs : List Byte) : (s.memWrite addr bs).ctr = s.ctr := rfl
@[simp] theorem State.memWrite_tmask (addr : Word) (bs : List Byte) : (s.memWrite addr bs).tmask = s.tmask := rfl
@[simp] theorem State.memWrite_xm (addr : Word) (bs : List Byte) : (s.memWrite addr bs).xm = s.xm := rfl
@[simp] theorem State.memWrite_aadlen (addr : Word) (bs : List Byte) : (s.memWrite addr bs).aadlen = s.aadlen := rfl
@[simp] theorem State.memWrite_datalen (addr : Word) (bs : List Byte) : (s.memWrite addr bs).datalen = s.datalen := rfl
@[simp] theorem State.memWrite_mem (addr : Word) (bs : List Byte) : (s.memWrite addr bs).mem = Memory.writeFrom s.mem addr bs := rfl
@[simp] theorem State.memWrite_resp (addr : Word) (bs : List Byte) : (s.memWrite addr bs).resp = s.resp := rfl
@[simp] theorem State.memWrite_inbox (addr : Word) (bs : List Byte) : (s.memWrite addr bs).inbox = s.inbox := rfl
@[simp] theorem State.memWrite_cipher (addr : Word) (bs : List Byte) : (s.memWrite addr bs).cipher = s.cipher := rfl
@[simp] theorem State.memWrite_windows (addr : Word) (bs : List Byte) : (s.memWrite addr bs).windows = s.windows := rfl
@[simp] theorem State.memWrite_draws (addr : Word) (bs : List Byte) : (s.memWrite addr bs).draws = s.draws := rfl

/-! ### absorb -/

@[simp] theorem State.absorb_mode (d : List Byte) : (s.absorb d).mode = s.mode := rfl
@[simp] theorem State.absorb_fcode (d : List Byte) : (s.absorb d).fcode = s.fcode := rfl
@[simp] theorem State.absorb_pt (d : List Byte) : (s.absorb d).pt = s.pt := rfl
@[simp] theorem State.absorb_gh (d : List Byte) : (s.absorb d).gh = absorbBlocks s.pt ((s.gbuf ++ d).length / 16) s.gh (s.gbuf ++ d) := rfl
@[simp] theorem State.absorb_gbuf (d : List Byte) : (s.absorb d).gbuf = partialBlock (s.gbuf ++ d) := rfl
@[simp] theorem State.absorb_ctr (d : List Byte) : (s.absorb d).ctr = s.ctr := rfl
@[simp] theorem State.absorb_tmask (d : List Byte) : (s.absorb d).tmask = s.tmask := rfl
@[simp] theorem State.absorb_xm (d : List Byte) : (s.absorb d).xm = s.xm := rfl
@[simp] theorem State.absorb_aadlen (d : List Byte) : (s.absorb d).aadlen = s.aadlen := rfl
@[simp] theorem State.absorb_datalen (d : List Byte) : (s.absorb d).datalen = s.datalen := rfl
@[simp] theorem State.absorb_mem (d : List Byte) : (s.absorb d).mem = s.mem := rfl
@[simp] theorem State.absorb_resp (d : List Byte) : (s.absorb d).resp = s.resp := rfl
@[simp] theorem State.absorb_inbox (d : List Byte) : (s.absorb d).inbox = s.inbox := rfl
@[simp] theorem State.absorb_cipher (d : List Byte) : (s.absorb d).cipher = s.cipher := rfl
@[simp] theorem State.absorb_windows (d : List Byte) : (s.absorb d).windows = s.windows := rfl
@[simp] theorem State.absorb_draws (d : List Byte) : (s.absorb d).draws = s.draws := rfl

/-! ### loadTable -/

@[simp] theorem State.loadTable_mode : (s.loadTable).mode = s.mode := by simp only [State.loadTable]
@[simp] theorem State.loadTable_fcode : (s.loadTable).fcode = s.fcode := by simp only [State.loadTable]
@[simp] theorem State.loadTable_pt : (s.loadTable).pt = buildTable s.pt (feOfBlock (s.E zeroBlock)) := by simp only [State.loadTable]
@[simp] theorem State.loadTable_gh : (s.loadTable).gh = s.gh := by simp only [State.loadTable]
@[simp] theorem State.loadTable_gbuf : (s.loadTable).gbuf = s.gbuf := by simp only [State.loadTable]
@[simp] theorem State.loadTable_ctr : (s.loadTable).ctr = s.ctr := by simp only [State.loadTable]
@[simp] theorem State.loadTable_tmask : (s.loadTable).tmask = s.tmask := by simp only [State.loadTable]
@[simp] theorem State.loadTable_xm : (s.loadTable).xm = s.xm := by simp only [State.loadTable]
@[simp] theorem State.loadTable_aadlen : (s.loadTable).aadlen = s.aadlen := by simp only [State.loadTable]
@[simp] theorem State.loadTable_datalen : (s.loadTable).datalen = s.datalen := by simp only [State.loadTable]
@[simp] theorem State.loadTable_mem : (s.loadTable).mem = s.mem := by simp only [State.loadTable]
@[simp] theorem State.loadTable_resp : (s.loadTable).resp = s.resp := by simp only [State.loadTable]
@[simp] theorem State.loadTable_inbox : (s.loadTable).inbox = s.inbox := by simp only [State.loadTable]
@[simp] theorem State.loadTable_cipher : (s.loadTable).cipher = s.cipher := by simp only [State.loadTable]
@[simp] theorem State.loadTable_windows : (s.loadTable).windows = s.windows := by simp only [State.loadTable]
@[simp] theorem State.loadTable_draws : (s.loadTable).draws = s.draws := by simp only [State.loadTable]

/-! ### startStream -/

@[simp] theorem State.startStream_mode (aad : List Byte) (n : Word) : (s.startStream aad n).mode = s.mode := rfl
@[simp] theorem State.startStream_fcode (aad : List Byte) (n : Word) : (s.startStream aad n).fcode = s.fcode := rfl
@[simp] theorem State.startStream_pt (aad : List Byte) (n : Word) : (s.startStream aad n).pt = s.pt := rfl
@[simp] theorem State.startStream_gh (aad : List Byte) (n : Word) : (s.startStream aad n).gh = update s.pt FE.zero aad := rfl
@[simp] theorem State.startStream_gbuf (aad : List Byte) (n : Word) : (s.startStream aad n).gbuf = [] := rfl
@[simp] theorem State.startStream_ctr (aad : List Byte) (n : Word) : (s.startStream aad n).ctr = s.ctr := rfl
@[simp] theorem State.startStream_tmask (aad : List Byte) (n : Word) : (s.startStream aad n).tmask = s.tmask := rfl
@[simp] theorem State.startStream_xm (aad : List Byte) (n : Word) : (s.startStream aad n).xm = s.xm := rfl
@[simp] theorem State.startStream_aadlen (aad : List Byte) (n : Word) : (s.startStream aad n).aadlen = n := rfl
@[simp] theorem State.startStream_datalen (aad : List Byte) (n : Word) : (s.startStream aad n).datalen = 0 := rfl
@[simp] theorem State.startStream_mem (aad : List Byte) (n : Word) : (s.startStream aad n).mem = s.mem := rfl
@[simp] theorem State.startStream_resp (aad : List Byte) (n : Word) : (s.startStream aad n).resp = s.resp := rfl
@[simp] theorem State.startStream_inbox (aad : List Byte) (n : Word) : (s.startStream aad n).inbox = s.inbox := rfl
@[simp] theorem State.startStream_cipher (aad : List Byte) (n : Word) : (s.startStream aad n).cipher = s.cipher := rfl
@[simp] theorem State.startStream_windows (aad : List Byte) (n : Word) : (s.startStream aad n).windows = s.windows := rfl
@[simp] theorem State.startStream_draws (aad : List Byte) (n : Word) : (s.startStream aad n).draws = s.draws := rfl

/-! ### setupCounter -/

@[simp] theorem State.setupCounter_mode (nonce : Block) : (s.setupCounter nonce).mode = s.mode := by simp only [State.setupCounter]
@[simp] theorem State.setupCounter_fcode (nonce : Block) : (s.setupCounter nonce).fcode = s.fcode := by simp only [State.setupCounter]
@[simp] theorem State.setupCounter_pt (nonce : Block) : (s.setupCounter nonce).pt = s.pt := by simp only [State.setupCounter]
@[simp] theorem State.setupCounter_gh (nonce : Block) : (s.setupCounter nonce).gh = s.gh := by simp only [State.setupCounter]
@[simp] theorem State.setupCounter_gbuf (nonce : Block) : (s.setupCounter nonce).gbuf = s.gbuf := by simp only [State.setupCounter]
@[simp] theorem State.setupCounter_ctr (nonce : Block) : (s.setupCounter nonce).ctr = inc32 (deriveCounter s.pt nonce) := by simp only [State.setupCounter]
@[simp] theorem State.setupCounter_tmask (nonce : Block) : (s.setupCounter nonce).tmask = s.E (deriveCounter s.pt nonce) := by simp only [State.setupCounter]
@[simp] theorem State.setupCounter_xm (nonce : Block) : (s.setupCounter nonce).xm = [] := by simp only [State.setupCounter]
@[simp] theorem State.setupCounter_aadlen (nonce : Block) : (s.setupCounter nonce).aadlen = s.aadlen := by simp only [State.setupCounter]
@[simp] theorem State.setupCounter_datalen (nonce : Block) : (s.setupCounter nonce).datalen = s.datalen := by simp only [State.setupCounter]
@[simp] theorem State.setupCounter_mem (nonce : Block) : (s.setupCounter nonce).mem = s.mem := by simp only [State.setupCounter]
@[simp] theorem State.setupCounter_resp (nonce : Block) : (s.setupCounter nonce).resp = s.resp := by simp only [State.setupCounter]
@[simp] theorem State.setupCounter_inbox (nonce : Block) : (s.setupCounter nonce).inbox = s.inbox := by simp only [State.setupCounter]
@[simp] theorem State.setupCounter_cipher (nonce : Block) : (s.setupCounter nonce).cipher = s.cipher := by simp only [State.setupCounter]
@[simp] theorem State.setupCounter_windows (nonce : Block) : (s.setupCounter nonce).windows = s.windows := by simp only [State.setupCounter]
@[simp] theorem State.setupCounter_draws (nonce : Block) : (s.setupCounter nonce).draws = s.draws := by simp only [State.setupCounter]

/-! ### assertReset -/

@[simp] theorem State.assertReset_mode : (s.assertReset).mode = .idle := rfl
@[simp] theorem State.assertReset_fcode : (s.assertReset).fcode = 0x00 := rfl
@[simp] theorem State.assertReset_pt : (s.assertReset).pt = Config.resetPT s.draws := rfl
@[simp] theorem State.assertReset_gh : (s.assertReset).gh = Config.resetGH s.draws := rfl
@[simp] theorem State.assertReset_gbuf : (s.assertReset).gbuf = [] := rfl
@[simp] theorem State.assertReset_ctr : (s.assertReset).ctr = Config.resetCTR s.draws := rfl
@[simp] theorem State.assertReset_tmask : (s.assertReset).tmask = Config.resetTMASK s.draws := rfl
@[simp] theorem State.assertReset_xm : (s.assertReset).xm = [] := rfl
@[simp] theorem State.assertReset_aadlen : (s.assertReset).aadlen = Config.resetAADLEN s.draws := rfl
@[simp] theorem State.assertReset_datalen : (s.assertReset).datalen = Config.resetDATALEN s.draws := rfl
@[simp] theorem State.assertReset_mem : (s.assertReset).mem = s.mem := rfl
@[simp] theorem State.assertReset_resp : (s.assertReset).resp = none := rfl
@[simp] theorem State.assertReset_inbox : (s.assertReset).inbox = s.inbox := rfl
@[simp] theorem State.assertReset_cipher : (s.assertReset).cipher = s.cipher := rfl
@[simp] theorem State.assertReset_windows : (s.assertReset).windows = s.windows := rfl
@[simp] theorem State.assertReset_draws : (s.assertReset).draws = s.draws + 1 := rfl

/-! ### hostConnect -/

@[simp] theorem hostConnect_mode (port : CipherPort) : (hostConnect port s).mode = s.mode := rfl
@[simp] theorem hostConnect_fcode (port : CipherPort) : (hostConnect port s).fcode = s.fcode := rfl
@[simp] theorem hostConnect_pt (port : CipherPort) : (hostConnect port s).pt = s.pt := rfl
@[simp] theorem hostConnect_gh (port : CipherPort) : (hostConnect port s).gh = s.gh := rfl
@[simp] theorem hostConnect_gbuf (port : CipherPort) : (hostConnect port s).gbuf = s.gbuf := rfl
@[simp] theorem hostConnect_ctr (port : CipherPort) : (hostConnect port s).ctr = s.ctr := rfl
@[simp] theorem hostConnect_tmask (port : CipherPort) : (hostConnect port s).tmask = s.tmask := rfl
@[simp] theorem hostConnect_xm (port : CipherPort) : (hostConnect port s).xm = s.xm := rfl
@[simp] theorem hostConnect_aadlen (port : CipherPort) : (hostConnect port s).aadlen = s.aadlen := rfl
@[simp] theorem hostConnect_datalen (port : CipherPort) : (hostConnect port s).datalen = s.datalen := rfl
@[simp] theorem hostConnect_mem (port : CipherPort) : (hostConnect port s).mem = s.mem := rfl
@[simp] theorem hostConnect_resp (port : CipherPort) : (hostConnect port s).resp = s.resp := rfl
@[simp] theorem hostConnect_inbox (port : CipherPort) : (hostConnect port s).inbox = s.inbox := rfl
@[simp] theorem hostConnect_cipher (port : CipherPort) : (hostConnect port s).cipher = port := rfl
@[simp] theorem hostConnect_windows (port : CipherPort) : (hostConnect port s).windows = s.windows := rfl
@[simp] theorem hostConnect_draws (port : CipherPort) : (hostConnect port s).draws = s.draws := rfl

/-! ### setMode -/

@[simp] theorem State.setMode_mode (m : Mode) : (s.setMode m).mode = m := rfl
@[simp] theorem State.setMode_fcode (m : Mode) : (s.setMode m).fcode = s.fcode := rfl
@[simp] theorem State.setMode_pt (m : Mode) : (s.setMode m).pt = s.pt := rfl
@[simp] theorem State.setMode_gh (m : Mode) : (s.setMode m).gh = s.gh := rfl
@[simp] theorem State.setMode_gbuf (m : Mode) : (s.setMode m).gbuf = s.gbuf := rfl
@[simp] theorem State.setMode_ctr (m : Mode) : (s.setMode m).ctr = s.ctr := rfl
@[simp] theorem State.setMode_tmask (m : Mode) : (s.setMode m).tmask = s.tmask := rfl
@[simp] theorem State.setMode_xm (m : Mode) : (s.setMode m).xm = s.xm := rfl
@[simp] theorem State.setMode_aadlen (m : Mode) : (s.setMode m).aadlen = s.aadlen := rfl
@[simp] theorem State.setMode_datalen (m : Mode) : (s.setMode m).datalen = s.datalen := rfl
@[simp] theorem State.setMode_mem (m : Mode) : (s.setMode m).mem = s.mem := rfl
@[simp] theorem State.setMode_resp (m : Mode) : (s.setMode m).resp = s.resp := rfl
@[simp] theorem State.setMode_inbox (m : Mode) : (s.setMode m).inbox = s.inbox := rfl
@[simp] theorem State.setMode_cipher (m : Mode) : (s.setMode m).cipher = s.cipher := rfl
@[simp] theorem State.setMode_windows (m : Mode) : (s.setMode m).windows = s.windows := rfl
@[simp] theorem State.setMode_draws (m : Mode) : (s.setMode m).draws = s.draws := rfl

/-! ### countData -/

@[simp] theorem State.countData_mode (n : Word) : (s.countData n).mode = s.mode := rfl
@[simp] theorem State.countData_fcode (n : Word) : (s.countData n).fcode = s.fcode := rfl
@[simp] theorem State.countData_pt (n : Word) : (s.countData n).pt = s.pt := rfl
@[simp] theorem State.countData_gh (n : Word) : (s.countData n).gh = s.gh := rfl
@[simp] theorem State.countData_gbuf (n : Word) : (s.countData n).gbuf = s.gbuf := rfl
@[simp] theorem State.countData_ctr (n : Word) : (s.countData n).ctr = s.ctr := rfl
@[simp] theorem State.countData_tmask (n : Word) : (s.countData n).tmask = s.tmask := rfl
@[simp] theorem State.countData_xm (n : Word) : (s.countData n).xm = s.xm := rfl
@[simp] theorem State.countData_aadlen (n : Word) : (s.countData n).aadlen = s.aadlen := rfl
@[simp] theorem State.countData_datalen (n : Word) : (s.countData n).datalen = s.datalen + n := rfl
@[simp] theorem State.countData_mem (n : Word) : (s.countData n).mem = s.mem := rfl
@[simp] theorem State.countData_resp (n : Word) : (s.countData n).resp = s.resp := rfl
@[simp] theorem State.countData_inbox (n : Word) : (s.countData n).inbox = s.inbox := rfl
@[simp] theorem State.countData_cipher (n : Word) : (s.countData n).cipher = s.cipher := rfl
@[simp] theorem State.countData_windows (n : Word) : (s.countData n).windows = s.windows := rfl
@[simp] theorem State.countData_draws (n : Word) : (s.countData n).draws = s.draws := rfl

/-! ### advanceKeystream -/

@[simp] theorem State.advanceKeystream_mode (r : Crypted) : (s.advanceKeystream r).mode = s.mode := rfl
@[simp] theorem State.advanceKeystream_fcode (r : Crypted) : (s.advanceKeystream r).fcode = s.fcode := rfl
@[simp] theorem State.advanceKeystream_pt (r : Crypted) : (s.advanceKeystream r).pt = s.pt := rfl
@[simp] theorem State.advanceKeystream_gh (r : Crypted) : (s.advanceKeystream r).gh = s.gh := rfl
@[simp] theorem State.advanceKeystream_gbuf (r : Crypted) : (s.advanceKeystream r).gbuf = s.gbuf := rfl
@[simp] theorem State.advanceKeystream_ctr (r : Crypted) : (s.advanceKeystream r).ctr = r.ctr := rfl
@[simp] theorem State.advanceKeystream_tmask (r : Crypted) : (s.advanceKeystream r).tmask = s.tmask := rfl
@[simp] theorem State.advanceKeystream_xm (r : Crypted) : (s.advanceKeystream r).xm = r.xm := rfl
@[simp] theorem State.advanceKeystream_aadlen (r : Crypted) : (s.advanceKeystream r).aadlen = s.aadlen := rfl
@[simp] theorem State.advanceKeystream_datalen (r : Crypted) : (s.advanceKeystream r).datalen = s.datalen := rfl
@[simp] theorem State.advanceKeystream_mem (r : Crypted) : (s.advanceKeystream r).mem = s.mem := rfl
@[simp] theorem State.advanceKeystream_resp (r : Crypted) : (s.advanceKeystream r).resp = s.resp := rfl
@[simp] theorem State.advanceKeystream_inbox (r : Crypted) : (s.advanceKeystream r).inbox = s.inbox := rfl
@[simp] theorem State.advanceKeystream_cipher (r : Crypted) : (s.advanceKeystream r).cipher = s.cipher := rfl
@[simp] theorem State.advanceKeystream_windows (r : Crypted) : (s.advanceKeystream r).windows = s.windows := rfl
@[simp] theorem State.advanceKeystream_draws (r : Crypted) : (s.advanceKeystream r).draws = s.draws := rfl

/-! ### The cipher port under updates -/

@[simp] theorem State.respond_E (code : Byte) : (s.respond code).E = s.E := rfl
@[simp] theorem State.memWrite_E (addr : Word) (bs : List Byte) : (s.memWrite addr bs).E = s.E := rfl
@[simp] theorem State.absorb_E (d : List Byte) : (s.absorb d).E = s.E := rfl
@[simp] theorem State.loadTable_E : (s.loadTable).E = s.E := by simp only [State.E, State.loadTable]
@[simp] theorem State.startStream_E (aad : List Byte) (n : Word) : (s.startStream aad n).E = s.E := rfl
@[simp] theorem State.setupCounter_E (nonce : Block) : (s.setupCounter nonce).E = s.E := by simp only [State.E, State.setupCounter]
@[simp] theorem State.setMode_E (m : Mode) : (s.setMode m).E = s.E := rfl
@[simp] theorem State.countData_E (n : Word) : (s.countData n).E = s.E := rfl
@[simp] theorem State.advanceKeystream_E (r : Crypted) : (s.advanceKeystream r).E = s.E := rfl

/-! ### initSession -/

@[simp] theorem initSession_mode (role : Mode) (aAddr bAddr bLen : Word) : (initSession role aAddr bAddr bLen s).mode = role := by simp [initSession]
@[simp] theorem initSession_fcode (role : Mode) (aAddr bAddr bLen : Word) : (initSession role aAddr bAddr bLen s).fcode = s.fcode := by simp [initSession]
@[simp] theorem initSession_pt (role : Mode) (aAddr bAddr bLen : Word) : (initSession role aAddr bAddr bLen s).pt = buildTable s.pt (feOfBlock (s.E zeroBlock)) := by simp [initSession]
@[simp] theorem initSession_gh (role : Mode) (aAddr bAddr bLen : Word) : (initSession role aAddr bAddr bLen s).gh = update s.loadTable.pt FE.zero (s.memRead bAddr bLen) := by simp [initSession]
@[simp] theorem initSession_gbuf (role : Mode) (aAddr bAddr bLen : Word) : (initSession role aAddr bAddr bLen s).gbuf = [] := by simp [initSession]
@[simp] theorem initSession_ctr (role : Mode) (aAddr bAddr bLen : Word) : (initSession role aAddr bAddr bLen s).ctr = inc32 (deriveCounter s.loadTable.pt (pad16 (s.memRead aAddr Config.nonceLen))) := by simp [initSession]
@[simp] theorem initSession_tmask (role : Mode) (aAddr bAddr bLen : Word) : (initSession role aAddr bAddr bLen s).tmask = s.E (deriveCounter s.loadTable.pt (pad16 (s.memRead aAddr Config.nonceLen))) := by simp [initSession]
@[simp] theorem initSession_xm (role : Mode) (aAddr bAddr bLen : Word) : (initSession role aAddr bAddr bLen s).xm = [] := by simp [initSession]
@[simp] theorem initSession_aadlen (role : Mode) (aAddr bAddr bLen : Word) : (initSession role aAddr bAddr bLen s).aadlen = bLen := by simp [initSession]
@[simp] theorem initSession_datalen (role : Mode) (aAddr bAddr bLen : Word) : (initSession role aAddr bAddr bLen s).datalen = 0 := by simp [initSession]
@[simp] theorem initSession_mem (role : Mode) (aAddr bAddr bLen : Word) : (initSession role aAddr bAddr bLen s).mem = s.mem := by simp [initSession]
@[simp] theorem initSession_resp (role : Mode) (aAddr bAddr bLen : Word) : (initSession role aAddr bAddr bLen s).resp = some codeOk := by simp [initSession]
@[simp] theorem initSession_inbox (role : Mode) (aAddr bAddr bLen : Word) : (initSession role aAddr bAddr bLen s).inbox = s.inbox := by simp [initSession]
@[simp] theorem initSession_cipher (role : Mode) (aAddr bAddr bLen : Word) : (initSession role aAddr bAddr bLen s).cipher = s.cipher := by simp [initSession]
@[simp] theorem initSession_windows (role : Mode) (aAddr bAddr bLen : Word) : (initSession role aAddr bAddr bLen s).windows = s.windows := by simp [initSession]
@[simp] theorem initSession_draws (role : Mode) (aAddr bAddr bLen : Word) : (initSession role aAddr bAddr bLen s).draws = s.draws := by simp [initSession]

/-! ### cryptData -/

@[simp] theorem cryptData_mode (aAddr aLen bAddr : Word) : (cryptData aAddr aLen bAddr s).mode = s.mode := by simp [cryptData]
@[simp] theorem cryptData_fcode (aAddr aLen bAddr : Word) : (cryptData aAddr aLen bAddr s).fcode = s.fcode := by simp [cryptData]
@[simp] theorem cryptData_pt (aAddr aLen bAddr : Word) : (cryptData aAddr aLen bAddr s).pt = s.pt := by simp [cryptData]
@[simp] theorem cryptData_gh (aAddr aLen bAddr : Word) : (cryptData aAddr aLen bAddr s).gh = (s.absorb (s.memRead aAddr aLen)).gh := by simp [cryptData]
@[simp] theorem cryptData_gbuf (aAddr aLen bAddr : Word) : (cryptData aAddr aLen bAddr s).gbuf = (s.absorb (s.memRead aAddr aLen)).gbuf := by simp [cryptData]
@[simp] theorem cryptData_ctr (aAddr aLen bAddr : Word) : (cryptData aAddr aLen bAddr s).ctr = (s.counterCrypt (s.memRead aAddr aLen)).ctr := by simp [cryptData, State.counterCrypt]
@[simp] theorem cryptData_tmask (aAddr aLen bAddr : Word) : (cryptData aAddr aLen bAddr s).tmask = s.tmask := by simp [cryptData]
@[simp] theorem cryptData_xm (aAddr aLen bAddr : Word) : (cryptData aAddr aLen bAddr s).xm = (s.counterCrypt (s.memRead aAddr aLen)).xm := by simp [cryptData, State.counterCrypt]
@[simp] theorem cryptData_aadlen (aAddr aLen bAddr : Word) : (cryptData aAddr aLen bAddr s).aadlen = s.aadlen := by simp [cryptData]
@[simp] theorem cryptData_datalen (aAddr aLen bAddr : Word) : (cryptData aAddr aLen bAddr s).datalen = s.datalen + aLen := by simp [cryptData]
@[simp] theorem cryptData_mem (aAddr aLen bAddr : Word) : (cryptData aAddr aLen bAddr s).mem = Memory.writeFrom s.mem bAddr (s.counterCrypt (s.memRead aAddr aLen)).out := by simp [cryptData, State.counterCrypt]
@[simp] theorem cryptData_resp (aAddr aLen bAddr : Word) : (cryptData aAddr aLen bAddr s).resp = some codeOk := by simp [cryptData]
@[simp] theorem cryptData_inbox (aAddr aLen bAddr : Word) : (cryptData aAddr aLen bAddr s).inbox = s.inbox := by simp [cryptData]
@[simp] theorem cryptData_cipher (aAddr aLen bAddr : Word) : (cryptData aAddr aLen bAddr s).cipher = s.cipher := by simp [cryptData]
@[simp] theorem cryptData_windows (aAddr aLen bAddr : Word) : (cryptData aAddr aLen bAddr s).windows = s.windows := by simp [cryptData]
@[simp] theorem cryptData_draws (aAddr aLen bAddr : Word) : (cryptData aAddr aLen bAddr s).draws = s.draws := by simp [cryptData]

/-! ### writeTag -/

@[simp] theorem writeTag_mode (bAddr : Word) : (writeTag bAddr s).mode = s.mode := by simp [writeTag]
@[simp] theorem writeTag_fcode (bAddr : Word) : (writeTag bAddr s).fcode = s.fcode := by simp [writeTag]
@[simp] theorem writeTag_pt (bAddr : Word) : (writeTag bAddr s).pt = s.pt := by simp [writeTag]
@[simp] theorem writeTag_gh (bAddr : Word) : (writeTag bAddr s).gh = s.gh := by simp [writeTag]
@[simp] theorem writeTag_gbuf (bAddr : Word) : (writeTag bAddr s).gbuf = s.gbuf := by simp [writeTag]
@[simp] theorem writeTag_ctr (bAddr : Word) : (writeTag bAddr s).ctr = s.ctr := by simp [writeTag]
@[simp] theorem writeTag_tmask (bAddr : Word) : (writeTag bAddr s).tmask = s.tmask := by simp [writeTag]
@[simp] theorem writeTag_xm (bAddr : Word) : (writeTag bAddr s).xm = s.xm := by simp [writeTag]
@[simp] theorem writeTag_aadlen (bAddr : Word) : (writeTag bAddr s).aadlen = s.aadlen := by simp [writeTag]
@[simp] theorem writeTag_datalen (bAddr : Word) : (writeTag bAddr s).datalen = s.datalen := by simp [writeTag]
@[simp] theorem writeTag_mem (bAddr : Word) : (writeTag bAddr s).mem = Memory.writeFrom s.mem bAddr s.tagValue.toList := by simp [writeTag]
@[simp] theorem writeTag_resp (bAddr : Word) : (writeTag bAddr s).resp = some codeOk := by simp [writeTag]
@[simp] theorem writeTag_inbox (bAddr : Word) : (writeTag bAddr s).inbox = s.inbox := by simp [writeTag]
@[simp] theorem writeTag_cipher (bAddr : Word) : (writeTag bAddr s).cipher = s.cipher := by simp [writeTag]
@[simp] theorem writeTag_windows (bAddr : Word) : (writeTag bAddr s).windows = s.windows := by simp [writeTag]
@[simp] theorem writeTag_draws (bAddr : Word) : (writeTag bAddr s).draws = s.draws := by simp [writeTag]

/-! ### compareTag -/

@[simp] theorem compareTag_mode (aAddr : Word) : (compareTag aAddr s).mode = s.mode := by simp [compareTag]
@[simp] theorem compareTag_fcode (aAddr : Word) : (compareTag aAddr s).fcode = s.fcode := by simp [compareTag]
@[simp] theorem compareTag_pt (aAddr : Word) : (compareTag aAddr s).pt = s.pt := by simp [compareTag]
@[simp] theorem compareTag_gh (aAddr : Word) : (compareTag aAddr s).gh = s.gh := by simp [compareTag]
@[simp] theorem compareTag_gbuf (aAddr : Word) : (compareTag aAddr s).gbuf = s.gbuf := by simp [compareTag]
@[simp] theorem compareTag_ctr (aAddr : Word) : (compareTag aAddr s).ctr = s.ctr := by simp [compareTag]
@[simp] theorem compareTag_tmask (aAddr : Word) : (compareTag aAddr s).tmask = s.tmask := by simp [compareTag]
@[simp] theorem compareTag_xm (aAddr : Word) : (compareTag aAddr s).xm = s.xm := by simp [compareTag]
@[simp] theorem compareTag_aadlen (aAddr : Word) : (compareTag aAddr s).aadlen = s.aadlen := by simp [compareTag]
@[simp] theorem compareTag_datalen (aAddr : Word) : (compareTag aAddr s).datalen = s.datalen := by simp [compareTag]
@[simp] theorem compareTag_mem (aAddr : Word) : (compareTag aAddr s).mem = s.mem := by simp [compareTag]
@[simp] theorem compareTag_resp (aAddr : Word) : (compareTag aAddr s).resp = some (if s.memRead aAddr Config.tagLen = s.tagValue.toList then codeOk else codeAuthFailure) := by simp [compareTag]
@[simp] theorem compareTag_inbox (aAddr : Word) : (compareTag aAddr s).inbox = s.inbox := by simp [compareTag]
@[simp] theorem compareTag_cipher (aAddr : Word) : (compareTag aAddr s).cipher = s.cipher := by simp [compareTag]
@[simp] theorem compareTag_windows (aAddr : Word) : (compareTag aAddr s).windows = s.windows := by simp [compareTag]
@[simp] theorem compareTag_draws (aAddr : Word) : (compareTag aAddr s).draws = s.draws := by simp [compareTag]

@[simp] theorem initSession_E (role : Mode) (aAddr bAddr bLen : Word) : (initSession role aAddr bAddr bLen s).E = s.E := by simp [State.E]
@[simp] theorem cryptData_E (aAddr aLen bAddr : Word) : (cryptData aAddr aLen bAddr s).E = s.E := by simp [State.E]
@[simp] theorem writeTag_E (bAddr : Word) : (writeTag bAddr s).E = s.E := by simp [State.E]
@[simp] theorem compareTag_E (aAddr : Word) : (compareTag aAddr s).E = s.E := by simp [State.E]

end Sys2Proof.Machine
end

