-- ==== Sys2Proof/Laws/Memory.lean ====
section
/-!
SUPPORT. Memory: reading after writing one byte, the canonical form under every memory operation, and that equal reads need no equal history.
-/

namespace Sys2Proof.Machine

/-! ### Reading a byte after writing one -/

theorem Memory.readByte_cons_other {a a' : Nat} (b : Byte) (m : Memory) (h : a' ≠ a) :
    Memory.readByte (Memory.cons a b m) a' = Memory.readByte m a' := by
  unfold Memory.cons
  split
  · rfl
  · simp [Memory.readByte, Ne.symm h]

/-- A write leaves every other address as it was, canonical form or not. -/
theorem Memory.readByte_writeByte_other {a a' : Nat} (b : Byte) (m : Memory) (h : a' ≠ a) :
    Memory.readByte (Memory.writeByte m a b) a' = Memory.readByte m a' := by
  induction m with
  | nil => exact Memory.readByte_cons_other b [] h
  | cons e rest ih =>
    obtain ⟨k, v⟩ := e
    simp only [Memory.writeByte]
    split
    · simp only [Memory.readByte, ih]
    · split
      · next heq => rw [Memory.readByte_cons_other b rest h, Memory.readByte, if_neg (by omega)]
      · rw [Memory.readByte_cons_other b _ h]

/-! ### The canonical form -/

/-- `m` is canonical and all its addresses are at least `lo`. -/
def Memory.Above (lo : Nat) : Memory → Prop
  | [] => True
  | (k, v) :: rest => lo ≤ k ∧ k < Config.addressSpace ∧ v ≠ Config.unwrittenByte ∧ Memory.Above (k + 1) rest

theorem Memory.Above.mono {lo lo' : Nat} (h : lo' ≤ lo) : ∀ {m : Memory}, Memory.Above lo m → Memory.Above lo' m
  | [], _ => trivial
  | (_, _) :: _, ⟨h1, h2⟩ => ⟨by omega, h2⟩

theorem Memory.wf_cons_iff_above (k : Nat) (v : Byte) (rest : Memory) :
    Memory.wf ((k, v) :: rest) = true ↔ Memory.Above k ((k, v) :: rest) := by
  induction rest generalizing k v with
  | nil => simp [Memory.wf, Memory.Above]
  | cons e rest ih =>
    obtain ⟨k', v'⟩ := e
    have h := ih k' v'
    simp only [Memory.wf, Bool.and_eq_true, decide_eq_true_eq, h]
    simp only [Memory.Above, le_refl, true_and]
    constructor
    · rintro ⟨⟨h1, h2⟩, h3, h4, h5⟩
      exact ⟨by omega, h2, by omega, h3, h4, h5⟩
    · rintro ⟨_, h2, h3, h4, h5, h6⟩
      exact ⟨⟨by omega, h2⟩, h4, h5, h6⟩

/-- The Boolean check says exactly that addresses rise, stay below `2^64` and hold no unwritten byte. -/
theorem Memory.wf_iff_above (m : Memory) : Memory.wf m = true ↔ Memory.Above 0 m := by
  cases m with
  | nil => simp [Memory.wf, Memory.Above]
  | cons e rest =>
    obtain ⟨k, v⟩ := e
    rw [Memory.wf_cons_iff_above]
    simp [Memory.Above]

theorem Memory.readByte_of_above {lo a : Nat} (h : a < lo) : ∀ {m : Memory}, Memory.Above lo m → Memory.readByte m a = Config.unwrittenByte
  | [], _ => rfl
  | (k, v) :: rest, ⟨h1, _, _, h4⟩ => by
    rw [Memory.readByte, if_neg (by omega)]
    exact Memory.readByte_of_above (by omega) h4

theorem Memory.above_cons {lo a : Nat} {b : Byte} {m : Memory} (h1 : lo ≤ a) (h2 : a < Config.addressSpace)
    (h : Memory.Above (a + 1) m) : Memory.Above lo (Memory.cons a b m) := by
  unfold Memory.cons
  split
  · exact h.mono (by omega)
  · exact ⟨h1, h2, ‹_›, h⟩

theorem Memory.readByte_cons_self {a : Nat} {b : Byte} {m : Memory} (h : Memory.Above (a + 1) m) :
    Memory.readByte (Memory.cons a b m) a = b := by
  unfold Memory.cons
  split
  · next hb => rw [Memory.readByte_of_above (by omega) h, hb]
  · simp [Memory.readByte]

theorem Memory.above_writeByte {lo a : Nat} {b : Byte} (h2 : a < Config.addressSpace) :
    ∀ {m : Memory}, lo ≤ a → Memory.Above lo m → Memory.Above lo (Memory.writeByte m a b)
  | [], h1, _ => Memory.above_cons h1 h2 trivial
  | (k, v) :: rest, h1, ⟨g1, g2, g3, g4⟩ => by
    simp only [Memory.writeByte]
    split
    · exact ⟨g1, g2, g3, Memory.above_writeByte h2 (by omega) g4⟩
    · split
      · next heq => subst heq; exact Memory.above_cons h1 h2 g4
      · exact Memory.above_cons h1 h2 ⟨by omega, g2, g3, g4⟩

/-- In a canonical memory a read after a write to the same address gives the value written. -/
theorem Memory.readByte_writeByte_self {lo a : Nat} {b : Byte} :
    ∀ {m : Memory}, Memory.Above lo m → Memory.readByte (Memory.writeByte m a b) a = b
  | [], _ => Memory.readByte_cons_self trivial
  | (k, v) :: rest, ⟨_, g2, g3, g4⟩ => by
    simp only [Memory.writeByte]
    split
    · rw [Memory.readByte, if_neg (by omega)]
      exact Memory.readByte_writeByte_self g4
    · split
      · next heq => subst heq; exact Memory.readByte_cons_self g4
      · exact Memory.readByte_cons_self ⟨by omega, g2, g3, g4⟩

/-- Writing one byte keeps the canonical form. -/
theorem Memory.wf_writeByte (m : Memory) (a : Word) (b : Byte) (h : Memory.wf m = true) :
    Memory.wf (Memory.writeByte m a.toNat b) = true := by
  rw [Memory.wf_iff_above] at *
  exact Memory.above_writeByte a.isLt (by omega) h

/-- `MemWrite` keeps the canonical form. -/
theorem Memory.wf_writeFrom (m : Memory) (addr : Word) (bs : List Byte) (h : Memory.wf m = true) :
    Memory.wf (Memory.writeFrom m addr bs) = true := by
  induction bs generalizing m addr with
  | nil => exact h
  | cons b bs ih => exact ih _ _ (Memory.wf_writeByte m addr b h)

/-- The output regions of an abandoned command keep the canonical form. -/
theorem State.abandonOutput_wf (rs : List Region) (s : State) (h : Memory.wf s.mem = true) :
    Memory.wf (s.abandonOutput rs).mem = true := by
  induction rs generalizing s with
  | nil => exact h
  | cons r rs ih => exact ih _ (Memory.wf_writeFrom s.mem _ _ h)

/-- The memory after reset is canonical. -/
theorem reset_mem_wf : Memory.wf State.reset.mem = true := rfl

/-! ### Regions -/

theorem Memory.writeFrom_append (m : Memory) (addr : Word) (xs ys : List Byte) :
    Memory.writeFrom m addr (xs ++ ys) = Memory.writeFrom (Memory.writeFrom m addr xs) (addr + BitVec.ofNat 64 xs.length) ys := by
  induction xs generalizing m addr with
  | nil => simp [Memory.writeFrom]
  | cons x xs ih =>
    simp only [List.cons_append, Memory.writeFrom, List.length_cons, ih]
    congr 1
    rw [BitVec.ofNat_add]
    ac_rfl

/-- `MemWrite` leaves every address it does not write. -/
theorem Memory.readByte_writeFrom_other (m : Memory) (addr : Word) (bs : List Byte) (a : Word)
    (h : ∀ i < bs.length, a ≠ addr + BitVec.ofNat 64 i) :
    Memory.readByte (Memory.writeFrom m addr bs) a.toNat = Memory.readByte m a.toNat := by
  induction bs generalizing m addr with
  | nil => rfl
  | cons b bs ih =>
    rw [Memory.writeFrom, ih, Memory.readByte_writeByte_other]
    · have := h 0 (by simp)
      intro e
      exact this (by simpa using BitVec.eq_of_toNat_eq e)
    · intro i hi e
      refine h (i + 1) (by simpa using hi) ?_
      rw [e, BitVec.ofNat_add]
      ac_rfl

@[simp] theorem State.memRead_length (s : State) (addr n : Word) : (s.memRead addr n).length = n.toNat := by
  simp [State.memRead]

theorem State.memRead_getElem (s : State) (addr n : Word) (i : Nat) (h : i < (s.memRead addr n).length) :
    (s.memRead addr n)[i] = s.readByte (addr + BitVec.ofNat 64 i) := by
  simp [State.memRead]

end Sys2Proof.Machine
end

