-- ==== Sys2Proof/Laws/Commands.lean ====
section
/-!
SUPPORT. One spec lemma per shared operation: admission of regions, the product table's reads and writes, the checks around a command's body
(`runCommand_cases`, `exec_cases`) and the step (`step_cases`). Later proofs cite these instead of unfolding the operations.
-/

namespace Sys2Proof.Machine

/-! ### Admission -/

theorem State.regionRefusal_eq_none_iff (s : State) (r : Region) :
    s.regionRefusal r = none ↔
      r.len = 0 ∨ (r.addr.toNat + r.len.toNat ≤ 2 ^ 64 ∧
        (s.windows.any (fun w => w.covers r) = true ∨ Config.memAdmits r.addr r.len = true)) := by
  unfold State.regionRefusal Config.addressSpace
  split
  · simp [*]
  · split
    · next h1 h2 => simp only [reduceCtorEq, h1, false_or, false_iff]; omega
    · next h1 h2 =>
      have : r.addr.toNat + r.len.toNat ≤ 2 ^ 64 := by omega
      split <;> simp_all

theorem State.refusalOf_eq_none_iff (s : State) (rs : List Region) :
    s.refusalOf rs = none ↔ ∀ r ∈ rs, s.regionRefusal r = none := by
  induction rs with
  | nil => simp [State.refusalOf]
  | cons r rs ih =>
    simp only [State.refusalOf, List.mem_cons, forall_eq_or_imp]
    split
    · simp [*]
    · simp [*]

/-- A region of a ready command is empty or does not wrap. -/
theorem HostReady.fits {i : Instr} {s : State} (h : HostReady i s) {r : Region} (hr : r ∈ regionsOf i) :
    r.len = 0 ∨ r.addr.toNat + r.len.toNat ≤ 2 ^ 64 := by
  have := (s.regionRefusal_eq_none_iff r).1 ((s.refusalOf_eq_none_iff _).1 h r hr)
  tauto

/-- Admission depends on the platform alone. -/
theorem State.refusalOf_congr {s t : State} (h : t.windows = s.windows) (rs : List Region) : t.refusalOf rs = s.refusalOf rs := by
  induction rs with
  | nil => rfl
  | cons r rs ih => simp only [State.refusalOf, State.regionRefusal, h, ih]

/-! ### The product table -/

theorem ProductTable.read_zero (pt : ProductTable) : pt.read 0 = FE.zero := by simp [ProductTable.read]

theorem ProductTable.read_write_self (pt : ProductTable) (i : Nibble) (v : FE) (h : i ≠ 0) : (pt.write i v).read i = v := by
  unfold ProductTable.read ProductTable.write
  rw [dif_neg h]
  simp only [dif_neg h, Vector.getElem_set_self]

theorem ProductTable.read_write_other (pt : ProductTable) (i j : Nibble) (v : FE) (h : i ≠ j) : (pt.write i v).read j = pt.read j := by
  unfold ProductTable.read ProductTable.write
  by_cases hj : j = 0
  · simp only [dif_pos hj]
  · by_cases hi : i = 0
    · simp only [dif_neg hj, dif_pos hi]
    · have h1 : i.toNat ≠ j.toNat := fun e => h (BitVec.eq_of_toNat_eq e)
      have h2 : i.toNat ≠ 0 := fun e => hi (BitVec.eq_of_toNat_eq e)
      have h3 : j.toNat ≠ 0 := fun e => hj (BitVec.eq_of_toNat_eq e)
      simp only [dif_neg hi, dif_neg hj]
      rw [Vector.getElem_set_ne]
      omega

/-! ### Byte lists -/

@[simp] theorem xorBytes_length (s t : List Byte) : (xorBytes s t).length = min s.length t.length := by simp [xorBytes]

@[simp] theorem partialBlock_length (d : List Byte) : (partialBlock d).length = d.length % 16 := by
  simp only [partialBlock, List.length_drop]; omega

@[simp] theorem xorBytes_nil (s : List Byte) : xorBytes [] s = [] := by simp [xorBytes]

/-! ### The checks around a body -/

/-- Everything `runCommand` can answer. -/
theorem runCommand_cases (i : Instr) (body : State → State) (s : State) :
    (s.mode = .faulted ∧ runCommand i body s = .next s.answerLatched) ∨
    (s.mode ≠ .faulted ∧ allowedIn i s.mode = false ∧ runCommand i body s = .next (s.raiseFault codeRoleViolation)) ∨
    (s.mode ≠ .faulted ∧ allowedIn i s.mode = true ∧
      ((∃ code, operandCheck i = .fault code ∧ runCommand i body s = .next (s.raiseFault code)) ∨
       (∃ code, operandCheck i = .answer code ∧ runCommand i body s = .next (s.respond code)) ∨
       (operandCheck i = .pass ∧ ∃ why, s.refusalOf (regionsOf i) = some why ∧ runCommand i body s = .refused why) ∨
       (operandCheck i = .pass ∧ HostReady i s ∧ runCommand i body s = .next (body s)))) := by
  unfold runCommand HostReady
  by_cases hf : s.mode = .faulted
  · simp [hf]
  · cases ha : allowedIn i s.mode
    · simp [hf]
    · cases ho : operandCheck i with
      | fault code => simp [hf]
      | answer code => simp [hf]
      | pass =>
        cases hr : s.refusalOf (regionsOf i) with
        | none => simp [hf]
        | some why => simp [hf]

/-- The body of each command (R132 to R138): what runs once the checks pass. -/
def commandBody : Instr → State → State
  | .initEnc aAddr _ bAddr bLen => initSession .enc aAddr bAddr bLen
  | .initDec aAddr _ bAddr bLen => initSession .dec aAddr bAddr bLen
  | .encrypt aAddr aLen bAddr _ => cryptData aAddr aLen bAddr
  | .decrypt aAddr aLen bAddr _ => cryptData aAddr aLen bAddr
  | .tag _ _ bAddr _ => writeTag bAddr
  | .verify aAddr _ _ _ => compareTag aAddr

theorem exec_eq_runCommand (i : Instr) (s : State) : exec i s = runCommand i (commandBody i) s := by
  cases i <;> rfl

/-- Everything `exec` can answer. -/
theorem exec_cases (i : Instr) (s : State) :
    (s.mode = .faulted ∧ exec i s = .next s.answerLatched) ∨
    (s.mode ≠ .faulted ∧ allowedIn i s.mode = false ∧ exec i s = .next (s.raiseFault codeRoleViolation)) ∨
    (s.mode ≠ .faulted ∧ allowedIn i s.mode = true ∧
      ((∃ code, operandCheck i = .fault code ∧ exec i s = .next (s.raiseFault code)) ∨
       (∃ code, operandCheck i = .answer code ∧ exec i s = .next (s.respond code)) ∨
       (operandCheck i = .pass ∧ ∃ why, s.refusalOf (regionsOf i) = some why ∧ exec i s = .refused why) ∨
       (operandCheck i = .pass ∧ HostReady i s ∧ exec i s = .next (commandBody i s)))) := by
  rw [exec_eq_runCommand]
  exact runCommand_cases i (commandBody i) s

/-- A ready command that is allowed and passes its operand check runs its body. -/
theorem exec_of_ready {i : Instr} {s : State} (hm : s.mode ≠ .faulted) (ha : allowedIn i s.mode = true)
    (ho : operandCheck i = .pass) (hr : HostReady i s) : exec i s = .next (commandBody i s) := by
  unfold HostReady at hr
  simp [exec_eq_runCommand, runCommand, hm, ha, ho, hr]

/-! ### The cipher port -/

theorem State.mayConnect_iff (s : State) (port : CipherPort) : s.mayConnect port = true ↔ s.mode.live = false ∨ port = s.cipher := by
  simp [State.mayConnect]

/-- Everything the platform's move on the cipher port can answer. -/
theorem connectCipherMove_cases (port : CipherPort) (s : State) :
    ((s.mode.live = false ∨ port = s.cipher) ∧ connectCipherMove port s = .next { s with cipher := port }) ∨
    (s.mode.live = true ∧ port ≠ s.cipher ∧ connectCipherMove port s = .refused .cipherFixedInSession) := by
  unfold connectCipherMove
  by_cases h : s.mayConnect port = true
  · exact .inl ⟨(s.mayConnect_iff port).1 h, by simp [h, hostConnect]⟩
  · have h' := mt (s.mayConnect_iff port).2 h
    exact .inr (by simpa [h] using h')

/-- Everything a change of cipher before a presented descriptor can answer: it is refused, or it is that descriptor run on the new cipher, which in a
live session starts another one. -/
theorem rekeyMove_cases (port : CipherPort) (d : Descriptor) (s : State) :
    ((s.mode.live = false ∨ port = s.cipher ∨ startsSession d = true) ∧
      rekeyMove port d s = runDescriptor d { s with cipher := port }) ∨
    (s.mode.live = true ∧ port ≠ s.cipher ∧ startsSession d = false ∧ rekeyMove port d s = .refused .cipherFixedInSession) := by
  unfold rekeyMove
  by_cases h : s.mayConnect port = true
  · exact .inl ⟨by have := (s.mayConnect_iff port).1 h; tauto, by simp [h, hostConnect]⟩
  · have h' := mt (s.mayConnect_iff port).2 h
    cases hd : startsSession d
    · exact .inr (by simpa [h, hd] using h')
    · exact .inl ⟨by simp, by simp [h, hostConnect]⟩

theorem startsSession_iff (d : Descriptor) : startsSession d = true ↔ ∃ i, decode d = .ok i ∧ isInit i = true := by
  unfold startsSession
  cases decode d <;> simp

/-! ### The step -/

/-- Everything a step can do: wait, or take the oldest move. -/
theorem step_cases (s : State) :
    (s.inbox = [] ∧ step s = .next s) ∨
    (∃ d rest, s.inbox = .present d :: rest ∧ step s = runDescriptor d { s with inbox := rest }) ∨
    (∃ addr v rest, s.inbox = .poke addr v :: rest ∧ step s = .next (hostPoke addr v { s with inbox := rest })) ∨
    (∃ rest, s.inbox = .reset :: rest ∧ step s = .next (State.assertReset { s with inbox := rest })) ∨
    (∃ d rest, s.inbox = .resetDuring d :: rest ∧ step s = resetDuringCommand d { s with inbox := rest }) ∨
    (∃ port rest, s.inbox = .connectCipher port :: rest ∧ step s = connectCipherMove port { s with inbox := rest }) ∨
    (∃ port d rest, s.inbox = .rekey port d :: rest ∧ step s = rekeyMove port d { s with inbox := rest }) := by
  unfold step State.takeMove
  cases hi : s.inbox with
  | nil => simp [idleStep]
  | cons move rest => cases move <;> simp

end Sys2Proof.Machine
end

