-- ==== Sys2Proof/Laws/PerInstr.lean ====
section
/-!
SUPPORT. Statements made per constructor of `Instr`: `LegalEncoding`, that the encoder's descriptor has no reserved bit set and one of the six opcodes
(spec/30_encoding.md R60, R64, R65).
-/

namespace Sys2Proof.Laws.LegalEncoding

/-- The encoding of the command has `RSV0 = 0` and an `OPCODE` in `0x01..0x06`. -/
def Statement (i : Instr) : Prop := (encode i).rsv0 = 0 ∧ 1 ≤ (encode i).opcode.toNat ∧ (encode i).opcode.toNat ≤ 6

theorem initEnc (aAddr aLen bAddr bLen : Word) : Statement (.initEnc aAddr aLen bAddr bLen) := by
  simp [Statement, encode, Descriptor.rsv0, Descriptor.opcode]

theorem initDec (aAddr aLen bAddr bLen : Word) : Statement (.initDec aAddr aLen bAddr bLen) := by
  simp [Statement, encode, Descriptor.rsv0, Descriptor.opcode]

theorem encrypt (aAddr aLen bAddr bLen : Word) : Statement (.encrypt aAddr aLen bAddr bLen) := by
  simp [Statement, encode, Descriptor.rsv0, Descriptor.opcode]

theorem decrypt (aAddr aLen bAddr bLen : Word) : Statement (.decrypt aAddr aLen bAddr bLen) := by
  simp [Statement, encode, Descriptor.rsv0, Descriptor.opcode]

theorem tag (aAddr aLen bAddr bLen : Word) : Statement (.tag aAddr aLen bAddr bLen) := by
  simp [Statement, encode, Descriptor.rsv0, Descriptor.opcode]

theorem verify (aAddr aLen bAddr bLen : Word) : Statement (.verify aAddr aLen bAddr bLen) := by
  simp [Statement, encode, Descriptor.rsv0, Descriptor.opcode]

end Sys2Proof.Laws.LegalEncoding
end

