-- ==== Sys2Proof/Tests/Slice0.lean ====
section
/-!
SUPPORT. Tests: ill-formed terms the checks refuse, words written out from spec/30_encoding.md, one step at a time of the vectors and programs of
spec/95_test_vectors.md, and for every obligation with hypotheses a witness that meets them. Expected values are the spec's.
-/

namespace Sys2Proof.Tests

open Sys2Proof Sys2Proof.Machine

-- One theorem after the other: side by side, the kernel evaluations below take a thread and a stack each.
set_option Elab.async false

/-! ### Well-formedness (R48, R66): each check refuses an ill-formed term -/

theorem test_encrypt_with_junk_in_ignored_word : (Instr.encrypt 0x2000 4 0x3000 0x77).ignoredZero = false := by decide
theorem test_decrypt_with_junk_in_ignored_word : (Instr.decrypt 0x2000 4 0x3000 1).ignoredZero = false := by decide
theorem test_tag_with_junk_in_ignored_words : (Instr.tag 0xDEAD 0xBEEF 0x4000 0x77).ignoredZero = false := by decide
theorem test_verify_with_junk_in_ignored_word : (Instr.verify 0x4000 16 1 0).ignoredZero = false := by decide
theorem test_init_nonce_region_wraps : (Instr.initEnc 0xFFFFFFFFFFFFFFF1 16 0 0).regionsFit = false := by decide
theorem test_init_aad_region_wraps : (Instr.initDec 0x1000 16 0xFFFFFFFFFFFFFFFF 2).regionsFit = false := by decide
theorem test_encrypt_input_wraps : (Instr.encrypt 0xFFFFFFFFFFFFFFFF 2 0x3000 0).regionsFit = false := by decide
theorem test_decrypt_output_wraps : (Instr.decrypt 0x2000 2 0xFFFFFFFFFFFFFFFF 0).regionsFit = false := by decide
theorem test_tag_region_wraps : (Instr.tag 0 0 0xFFFFFFFFFFFFFFF1 0).regionsFit = false := by decide
theorem test_verify_region_wraps : (Instr.verify 0xFFFFFFFFFFFFFFF1 16 0 0).regionsFit = false := by decide
theorem test_region_up_to_the_top_fits : (Instr.tag 0 0 0xFFFFFFFFFFFFFFF0 0).wellFormed = true := by decide
theorem test_empty_region_fits_anywhere : (Instr.encrypt 0xFFFFFFFFFFFFFFFF 0 0xFFFFFFFFFFFFFFFF 0).wellFormed = true := by decide

/-! ### Decoding (R60, R64, R65): words written out from the encoding -/

theorem test_decode_init_enc : decode ⟨0x0000000000000001, 0x1000, 0x10, 0x1100, 0x3⟩ = .ok (.initEnc 0x1000 16 0x1100 3) := by decide
theorem test_decode_init_dec : decode ⟨0x0000000000000002, 0x1000, 0x10, 0, 0⟩ = .ok (.initDec 0x1000 16 0 0) := by decide
theorem test_decode_encrypt : decode ⟨0x0000000000000003, 0x2000, 0x14, 0x3000, 0⟩ = .ok (.encrypt 0x2000 20 0x3000 0) := by decide
theorem test_decode_decrypt : decode ⟨0x0000000000000004, 0x3004, 0x10, 0x5004, 0⟩ = .ok (.decrypt 0x3004 16 0x5004 0) := by decide
theorem test_decode_tag : decode ⟨0x0000000000000005, 0, 0, 0x4010, 0⟩ = .ok (.tag 0 0 0x4010 0) := by decide
theorem test_decode_verify : decode ⟨0x0000000000000006, 0x6010, 0x10, 0, 0⟩ = .ok (.verify 0x6010 16 0 0) := by decide
theorem test_decode_opcode_zero : decode ⟨0, 0, 0, 0, 0⟩ = .error .unknownOpcode := by decide
theorem test_decode_opcode_ff : decode ⟨0xFF, 0, 0, 0, 0⟩ = .error .unknownOpcode := by decide
theorem test_decode_reserved_bit_8 : decode ⟨0x103, 0x2000, 4, 0x3000, 0⟩ = .error .reservedBits := by decide
theorem test_decode_reserved_bit_63 : decode ⟨0x8000000000000001, 0x1000, 0x10, 0, 0⟩ = .error .reservedBits := by decide
theorem test_table_word_is_w0 : decodeTableWord 64 0x3 = some (.encrypt 0 0 0 0) := by decide
theorem test_table_word_second_word_is_w1 : decodeTableWord 128 (0x6 + 2 ^ 64 * 0x4000) = some (.verify 0x4000 0 0 0) := by decide
theorem test_assembled_line :   -- the example of R68
    (Line.encrypt 0x2000 20 0x3000).assemble = .present ⟨3, 0x2000, 0x14, 0x3000, 0⟩ := by decide
theorem test_line_text : (Line.encrypt 0x2000 20 0x3000).text = "ENCRYPT src=@0x2000,20 dst=@0x3000" := by decide
theorem test_line_with_response : (Line.initEnc 0x1000 16 0 0).withResponse codeOk = "INIT_ENC nonce=@0x1000,16 aad=@0x0,0 -> 0x00" := by decide

/-! ### Field arithmetic (95_test_vectors.md section 2) -/

/-- `H` of UGCM §8's key (95_test_vectors.md section 1.2). -/
def aesH : FE := ⟨0xD9643D8DCB454705, 0x89999804603D3432⟩
/-- Any earlier table. -/
def anyTable : ProductTable := Vector.replicate 15 ⟨1, 2⟩

theorem test_double_reduces : double ⟨1, 1⟩ = ⟨0xE100000000000000, 0x8000000000000000⟩ := by decide
theorem test_double_all_ones : double ⟨0xFFFFFFFFFFFFFFFF, 0xFFFFFFFFFFFFFFFF⟩ = ⟨0x9EFFFFFFFFFFFFFF, 0xFFFFFFFFFFFFFFFF⟩ := by decide
theorem test_mul_all_ones :
    mul (buildTable anyTable aesH) ⟨0xFFFFFFFFFFFFFFFF, 0xFFFFFFFFFFFFFFFF⟩ = ⟨0x18E16E94F7465089, 0x36D111DDC09EC9A9⟩ := by decide +kernel
theorem test_table_entry_1_is_8H : (buildTable anyTable aesH).read 1 = ⟨0x6BAC87B1B968A8E0, 0xB13333008C07A686⟩ := by decide +kernel
theorem test_table_entry_15 : (buildTable anyTable aesH).read 15 = ⟨0x0923AB99E55E1DA6, 0x9E000107C42B45A1⟩ := by decide +kernel
theorem test_inc32_wraps :
    inc32 (pad16 [255, 255, 255, 255, 255, 255, 255, 255, 255, 255, 255, 255, 255, 255, 255, 255]) =
      pad16 [255, 255, 255, 255, 255, 255, 255, 255, 255, 255, 255, 255, 0, 0, 0, 0] := by decide

/-! ### Small states -/

/-- The nonce `00 01 .. 0f` of P3 to P5. -/
def nonceBytes : List Byte := [0, 1, 2, 3, 4, 5, 6, 7, 8, 9, 10, 11, 12, 13, 14, 15]
/-- A counter block of P3: `00 01 .. 0e` and a last byte. -/
def ctrBlock (last : Byte) : Block := pad16 (nonceBytes.take 15 ++ [last])
/-- The answers of the toy cipher `E_one` that P3 to P5 ask for. -/
def onePort : CipherPort :=
  { key := 0, answers := [zeroBlock, ctrBlock 0x8f, ctrBlock 0x90, ctrBlock 0x91].map fun b => (b, xorBlock b (pad16 [0x80])) }
/-- The answers of AES-128 under UGCM §8's key (95_test_vectors.md section 1.2). -/
def aesPort : CipherPort :=
  { key := 0, answers :=
    [(zeroBlock, pad16 [0xd9, 0x64, 0x3d, 0x8d, 0xcb, 0x45, 0x47, 0x05, 0x89, 0x99, 0x98, 0x04, 0x60, 0x3d, 0x34, 0x32]),
     (pad16 [0x7a, 0x81, 0x3c, 0xc2, 0xbe, 0x24, 0xe6, 0x4d, 0xc5, 0xe9, 0xa6, 0x8b, 0x35, 0x2b, 0xea, 0xcc],
      pad16 [0x97, 0xf5, 0x41, 0x57, 0x64, 0xe6, 0xf6, 0x34, 0xfa, 0xc3, 0xbe, 0x23, 0x3e, 0x8d, 0x11, 0x46]),
     (pad16 [0x7a, 0x81, 0x3c, 0xc2, 0xbe, 0x24, 0xe6, 0x4d, 0xc5, 0xe9, 0xa6, 0x8b, 0x35, 0x2b, 0xea, 0xcd],
      pad16 [0xcb, 0xa1, 0x24, 0x86, 0xdc, 0xf8, 0xc0, 0xbe, 0x2b, 0x3b, 0xf2, 0x41, 0x6a, 0x91, 0x61, 0x20]),
     (pad16 [0x7a, 0x81, 0x3c, 0xc2, 0xbe, 0x24, 0xe6, 0x4d, 0xc5, 0xe9, 0xa6, 0x8b, 0x35, 0x2b, 0xea, 0xce],
      pad16 [0x5f, 0x6d, 0x68, 0xd7, 0xd8, 0x8e, 0xec, 0xd1, 0x70, 0x2a, 0xc4, 0xda, 0xdc, 0x8a, 0x39, 0x28])] }
/-- UGCM §8's nonce `N`, plaintext `P` and ciphertext `C`. -/
def nonceN : List Byte := [78, 81, 149, 178, 11, 68, 48, 35, 9, 70, 221, 214, 115, 12, 131, 250]
def plainP : List Byte := [13, 240, 125, 2, 0, 0, 0, 0, 7, 27, 120, 2, 96, 0, 164, 33, 60, 236, 147, 76]
def cipherC : List Byte := [198, 81, 89, 132, 220, 248, 192, 190, 44, 32, 138, 67, 10, 145, 197, 1, 99, 129, 251, 155]

/-- A core after reset on a platform that admits all of `MEM`. -/
def board (port : CipherPort) : State := { State.reset with cipher := port, windows := [⟨0, 2 ^ 64⟩] }
/-- P3 before its first command: nonce at 0x1000, AAD `a1 b2 c3` at 0x1100, eight data bytes at 0x2000. -/
def idleOne : State :=
  ((board onePort).memWrite 0x1000 nonceBytes).memWrite 0x1100 [0xa1, 0xb2, 0xc3] |>.memWrite 0x2000 [0x30, 0x31, 0x32, 0x33, 0x34, 0x35, 0x36, 0x37]
/-- P5 after `INIT_ENC` (empty AAD), and the same with the decrypter's role. -/
def encOne : State := initSession .enc 0x1000 0 0 idleOne
def decOne : State := initSession .dec 0x1000 0 0 idleOne
/-- A core that took a wrong nonce length (F-17). -/
def faultedOne : State := idleOne.raiseFault 0x80
/-- UGCM §8's session over AES, encrypter and decrypter. -/
def idleAes : State := ((board aesPort).memWrite 0x1000 nonceN).memWrite 0x2000 plainP |>.memWrite 0x3000 cipherC
def encAes : State := initSession .enc 0x1000 0 0 idleAes
def decAes : State := initSession .dec 0x1000 0 0 idleAes

/-- What a result says of its next state. -/
def onNext (r : Result) (f : State → Bool) : Bool :=
  match r with
  | .next t => f t
  | .fault _ => false
  | .refused _ => false

/-- The result is the refusal `why`. -/
def refusedBy (r : Result) (why : Refusal) : Bool :=
  match r with
  | .refused w => decide (w = why)
  | .next _ => false
  | .fault _ => false

/-! ### One step of each command (95_test_vectors.md) -/

theorem test_init_enc_of_P1 :   -- 43_session_commands.md R132, example
    onNext (exec (.initEnc 0x1000 16 0 0) idleAes) (fun t =>
      decide (t.pt.read 8 = aesH ∧ t.mode = .enc ∧
        t.ctr = pad16 [0x7a, 0x81, 0x3c, 0xc2, 0xbe, 0x24, 0xe6, 0x4d, 0xc5, 0xe9, 0xa6, 0x8b, 0x35, 0x2b, 0xea, 0xcd])) = true := by
  decide +kernel
theorem test_init_enc_of_P3 :   -- with AAD a1 b2 c3
    onNext (exec (.initEnc 0x1000 16 0x1100 3) idleOne) (fun t =>
      decide (t.gh = ⟨0xA1B2C30000000000, 0⟩ ∧ t.aadlen = 3 ∧ t.tmask = (ctrBlock 0x8f).set 0 0x80)) = true := by
  decide +kernel
theorem test_init_dec_on_live_encrypter :   -- F-20
    onNext (exec (.initDec 0x1000 16 0 0) encOne) (fun t => decide (t.mode = .dec ∧ t.ctr = ctrBlock 0x90 ∧ t.resp = some 0)) = true := by
  decide +kernel
theorem test_init_dec_wrong_nonce_length :   -- F-18
    onNext (exec (.initDec 0x1000 0 0 0) idleOne) (fun t => decide (t.mode = .faulted ∧ t.fcode = 0x80 ∧ t.mem = idleOne.mem)) = true := by
  decide +kernel
theorem test_encrypt_S1 :   -- UGCM §8 S1
    onNext (exec (.encrypt 0x2000 20 0x4000 0) encAes) (fun t =>
      decide (t.memRead 0x4000 20 = cipherC ∧ t.gh = ⟨0x5C5C32FD1E0C4CE6, 0x697FB1F20525EF79⟩ ∧ t.gbuf = [0x3c, 0xec, 0x93, 0x4c])) = true := by
  decide +kernel
theorem test_encrypt_touching_regions :   -- F-14
    onNext (exec (.encrypt 0x2000 8 0x2008 0) encOne) (fun t =>
      decide (t.memRead 0x2008 8 = [0xb0, 0x30, 0x30, 0x30, 0x30, 0x30, 0x30, 0x30] ∧ t.datalen = 8 ∧ t.xlen = 8 ∧ t.glen = 8)) = true := by
  decide +kernel
theorem test_decrypt_S4 :   -- both chunks of UGCM §8 S4 as one
    onNext (exec (.decrypt 0x3000 20 0x5000 0) decAes) (fun t =>
      decide (t.memRead 0x5000 20 = plainP ∧ t.gh = ⟨0x54153E292376D37A, 0xFCFA69CD57D1487E⟩)) = true := by
  decide +kernel
theorem test_decrypt_on_encrypter :   -- F-9
    onNext (exec (.decrypt 0x2000 4 0x3000 0) encOne) (fun t => decide (t.mode = .faulted ∧ t.resp = some 0x83)) = true := by
  decide +kernel
theorem test_tag_S3 :   -- UGCM §8 S3: the registers after four zero bytes, then the tag T
    onNext (exec (.tag 0 0 0x4000 0) { encAes with gbuf := [0, 0, 0, 0], datalen := 4 }) (fun t =>
      decide (t.memRead 0x4000 16 = [244, 140, 85, 134, 140, 233, 4, 61, 242, 195, 243, 243, 5, 171, 66, 137])) = true := by
  decide +kernel
theorem test_tag_with_junk_words :   -- F-30
    onNext (exec (.tag 0xDEAD 0xBEEF 0x4000 0x77) encOne) (fun t =>
      decide (t.memRead 0x4000 16 = 0x80 :: nonceBytes.tail.dropLast ++ [0x8f])) = true := by
  decide +kernel
theorem test_verify_own_tag :   -- T-1: with no data the tag is TMASK
    onNext (exec (.verify 0x4000 16 0 0) (decOne.memWrite 0x4000 decOne.tmask.toList)) (fun t => decide (t.resp = some 0)) = true := by
  decide +kernel
theorem test_verify_of_zeros :   -- F-23
    onNext (exec (.verify 0x4000 16 0 0) decOne) (fun t => decide (t.resp = some 1 ∧ t.mode = .dec ∧ t.fcode = 0)) = true := by
  decide +kernel

/-! ### Other steps -/

theorem test_illegal_descriptor_when_faulted :   -- F-26
    onNext (step { faultedOne with inbox := [.present ⟨0, 0, 0, 0, 0⟩] }) (fun t => decide (t.fcode = 0x80 ∧ t.resp = some 0x80)) = true := by
  decide +kernel
theorem test_decode_before_aliasing :   -- F-27
    onNext (step { encOne with inbox := [.present ⟨0x103, 0x2000, 8, 0x2001, 0⟩] }) (fun t => decide (t.fcode = 0x82)) = true := by
  decide +kernel
theorem test_reset_recovers :   -- P4
    onNext (step { faultedOne with inbox := [.reset] }) (fun t => decide (t.mode = .idle ∧ t.fcode = 0 ∧ t.gbuf = [] ∧ t.xm = [])) = true := by
  decide +kernel
theorem test_first_step_after_reset_runs_the_word :
    onNext (step (State.reset.withFetchWord 64 0x5)) (fun t => decide (t.fcode = 0x83)) = true := by
  decide +kernel
theorem test_wrapping_region_is_refused :
    refusedBy (exec (.initEnc 0xFFFFFFFFFFFFFFF1 16 0 0) idleOne) .regionWraps = true := by decide +kernel
theorem test_cipher_stays_in_a_session :   -- R196
    refusedBy (step { encOne with inbox := [.connectCipher aesPort] }) .cipherFixedInSession = true ∧
      refusedBy (step { encOne with inbox := [.rekey aesPort ⟨5, 0, 0, 0x4000, 0⟩] }) .cipherFixedInSession = true := by decide +kernel
theorem test_cipher_changes_before_the_next_init :   -- R196; PT[8] is then H of the new cipher
    onNext (step { encOne with inbox := [.rekey aesPort ⟨2, 0x1000, 16, 0, 0⟩] })
      (fun t => decide (t.mode = .dec ∧ t.pt.read 8 = aesH)) = true := by decide +kernel

/-! ### Witnesses: for each obligation with hypotheses, an input that meets them all (one conjunct per clause) -/

/-- The hypotheses of an obligation about a next state of `i` at `s` are met: the command is past its checks and ready. -/
theorem completes {i : Instr} {s : State} (hm : s.mode ≠ .faulted) (ha : allowedIn i s.mode = true)
    (ho : operandCheck i = .pass) (hr : HostReady i s) : ∃ t, exec i s = .next t := ⟨_, exec_of_ready hm ha ho hr⟩

/-- The encrypter session of `encOne` has the nonce `00 .. 0f`, no AAD and no data. -/
theorem encOne_session : SessionOf encOne (pad16 nonceBytes) [] [] := by constructor <;> decide +kernel
/-- So has the decrypter session of `decOne`. -/
theorem decOne_session : SessionOf decOne (pad16 nonceBytes) [] [] := by constructor <;> decide +kernel

/-- `decOne` with the ciphertext that `encOne` writes at 0x3000 (F-14) and its own tag at 0x4000. -/
def decTwo : State := (decOne.memWrite 0x3000 [0xb0, 0x30, 0x30, 0x30, 0x30, 0x30, 0x30, 0x30]).memWrite 0x4000 decOne.tmask.toList
theorem decTwo_session : SessionOf decTwo (pad16 nonceBytes) [] [] := by constructor <;> decide +kernel

/-- A descriptor on the command port. -/
def presenting (s : State) (d : Descriptor) : State := { s with inbox := [.present d] }

/-- `encOne` with a data command on its port. -/
def encNext : State := presenting encOne ⟨3, 0x2000, 8, 0x3000, 0⟩
theorem encNext_session : SessionOf encNext (pad16 nonceBytes) [] [] := by constructor <;> decide +kernel
/-- The next move is no reset and brings no `INIT_*`. -/
theorem encNext_move (move : HostMove) (rest : List HostMove) (h : encNext.inbox = move :: rest) :
    move.assertsReset = false ∧ ∀ d i, move.descriptor = some d → decode d = .ok i → isInit i = false := by
  obtain ⟨rfl, -⟩ : HostMove.present ⟨3, 0x2000, 8, 0x3000, 0⟩ = move ∧ [] = rest := by simpa [encNext, presenting] using h
  refine ⟨rfl, fun d i hd hi => ?_⟩
  obtain rfl : (⟨3, 0x2000, 8, 0x3000, 0⟩ : Descriptor) = d := by simpa [HostMove.descriptor] using hd
  obtain rfl : Instr.encrypt 0x2000 8 0x3000 0 = i := Except.ok.inj ((by decide : decode ⟨3, 0x2000, 8, 0x3000, 0⟩ = .ok (.encrypt 0x2000 8 0x3000 0)).symm.trans hi)
  rfl

theorem witness_BitrevReversesTheNibble : (0 : Nat) < 4 ∧ (3 : Nat) < 4 := by decide
theorem witness_DoubleMultipliesByX : (0 : Nat) < 128 ∧ (127 : Nat) < 128 := by decide
theorem witness_BlockConversionIsInverse : (0 : Nat) < 8 ∧ (7 : Nat) < 8 := by decide
theorem witness_CoefficientsOnTheWire : (0 : Nat) < 128 ∧ (127 : Nat) < 128 := by decide
theorem witness_IncrementMovesTheTailOnly : (0 : Nat) < 12 ∧ (11 : Nat) < 12 := by decide

theorem witness_UpdateAbsorbsByBlocks :
    nonceBytes.length = 16 ∧ (0 < [(0xa1 : Byte)].length ∧ [(0xa1 : Byte)].length < 16) ∧
      (0 < (nonceBytes.take 15).length ∧ (nonceBytes.take 15).length < 16) := by decide

theorem witness_FlushPadsTheWholeStream :
    encOne.gbuf.length < 16 ∧ encOne.gh = update encOne.pt FE.zero [] ∧ encOne.gbuf = [] := by decide +kernel

theorem witness_MemoryReadsBackWrites :
    Memory.wf idleOne.mem = true ∧ (0x2000 : Word).toNat + nonceBytes.length ≤ 2 ^ 64 ∧
      (0xFFFFFFFFFFFFFFFF : Word).toNat + [(7 : Byte)].length ≤ 2 ^ 64 ∧
      (0x1FFF : Word).toNat < (0x2000 : Word).toNat ∧ (0x2000 : Word).toNat + nonceBytes.length ≤ (0x2010 : Word).toNat ∧
      (0xFFFFFFFFFFFFFFFF : Word).toNat + (1 : Word).toNat ≤ 2 ^ 64 ∧ 0 < (idleOne.memRead 0xFFFFFFFFFFFFFFFF 1).length ∧ 15 < nonceBytes.length := by
  decide +kernel

theorem witness_InexactOverlapIsSharedMemory :   -- an overlap, touching regions, and a region up to the top
    (0x2000 : Word).toNat + (8 : Word).toNat ≤ 2 ^ 64 ∧ (0x2007 : Word).toNat + (8 : Word).toNat ≤ 2 ^ 64 ∧
      inexactOverlap 0x2000 0x2007 8 = true ∧ inexactOverlap 0x2000 0x2008 8 = false ∧
      (0xFFFFFFFFFFFFFFF8 : Word).toNat + (8 : Word).toNat ≤ 2 ^ 64 := by decide

theorem witness_UnadmittedRegionIsRefused :
    ∃ (i : Instr) (s : State), s.mode ≠ .faulted ∧ allowedIn i s.mode = true ∧ operandCheck i = .pass ∧
      ∃ r ∈ regionsOf i, r.len ≠ 0 ∧ 2 ^ 64 < r.addr.toNat + r.len.toNat :=
  ⟨.initEnc 0xFFFFFFFFFFFFFFF1 16 0 0, idleOne, by decide +kernel, by decide +kernel, by decide, ⟨0xFFFFFFFFFFFFFFF1, 16⟩, by decide, by decide, by decide⟩

/-- The other ground of R48, for whatever the platform does not admit: no value of the opaque predicate can be shown, so it stands as a premise. -/
theorem witness_UnadmittedRegionIsRefused_notAdmitted (h : Config.memAdmits 0x1000 16 = false) :
    ∃ (i : Instr) (s : State), s.mode ≠ .faulted ∧ allowedIn i s.mode = true ∧ operandCheck i = .pass ∧
      ∃ r ∈ regionsOf i, r.len ≠ 0 ∧ s.windows.any (fun w => w.covers r) = false ∧ Config.memAdmits r.addr r.len = false :=
  ⟨.initEnc 0x1000 16 0 0, State.reset, by decide, by decide, by decide, ⟨0x1000, 16⟩, by decide, by decide, by decide, h⟩

/-- `encOne`'s memory with one more byte, outside the regions of the command below. -/
def otherMem : Memory := Memory.writeByte encOne.mem (0x9000 : Word).toNat 1

theorem witness_CommandReadsOnlyItsRegions :
    (∀ r ∈ readRegions (.encrypt 0x2000 8 0x3000 0), ∀ a : Word, r.holds a = true → Memory.readByte otherMem a.toNat = encOne.readByte a) ∧
      HostReady (.encrypt 0x2000 8 0x3000 0) encOne ∧ Memory.wf encOne.mem = true ∧ Memory.wf otherMem = true ∧
      ∃ t, exec (.encrypt 0x2000 8 0x3000 0) encOne = .next t := by
  refine ⟨?_, by decide +kernel, by decide +kernel, by decide +kernel, completes (by decide +kernel) (by decide +kernel) (by decide) (by decide +kernel)⟩
  intro r hr a ha
  obtain rfl : r = ⟨0x2000, 8⟩ := by simpa [readRegions] using hr
  refine Memory.readByte_writeByte_other _ _ ?_
  simp [Region.holds] at ha ⊢
  omega

theorem witness_StepRunsDecodedCommand :
    (presenting encOne ⟨3, 0x2000, 8, 0x3000, 0⟩).inbox = [.present ⟨3, 0x2000, 8, 0x3000, 0⟩] ∧
      decode ⟨3, 0x2000, 8, 0x3000, 0⟩ = .ok (.encrypt 0x2000 8 0x3000 0) := by decide +kernel

theorem witness_IllegalDescriptorFaults :
    (presenting encOne ⟨0x103, 0, 0, 0, 0⟩).inbox = [.present ⟨0x103, 0, 0, 0, 0⟩] ∧ legalW0 0x103 = false ∧ legalW0 0 = false ∧ legalW0 7 = false ∧
      (presenting encOne ⟨0x103, 0, 0, 0, 0⟩).mode ≠ .faulted := by decide +kernel

theorem witness_IdleAndHostMoves :   -- the cipher port in IDLE and in ENC; a new cipher before an INIT and before another command
    encOne.inbox = [] ∧ Memory.wf encOne.mem = true ∧
      ({ encOne with inbox := [.poke 0xFFFFFFFFFFFFFFFF 0] } : State).inbox = [.poke 0xFFFFFFFFFFFFFFFF 0] ∧ (0 : Word) ≠ 0xFFFFFFFFFFFFFFFF ∧
      (({ idleOne with inbox := [.connectCipher aesPort] } : State).inbox = [.connectCipher aesPort] ∧ idleOne.mode.live = false) ∧
      (({ encOne with inbox := [.connectCipher aesPort] } : State).inbox = [.connectCipher aesPort] ∧ encOne.mode.live = true ∧ aesPort ≠ encOne.cipher) ∧
      (decode ⟨2, 0x1000, 16, 0, 0⟩ = .ok (.initDec 0x1000 16 0 0) ∧ isInit (.initDec 0x1000 16 0 0) = true) ∧
      (decode ⟨5, 0, 0, 0x4000, 0⟩ = .ok (.tag 0 0 0x4000 0) ∧ isInit (.tag 0 0 0x4000 0) = false) ∧
      onNext (step { encOne with inbox := [.rekey aesPort ⟨2, 0x1000, 16, 0, 0⟩] }) (fun t => decide (t.cipher ≠ encOne.cipher)) = true := by
  decide +kernel

theorem witness_ChecksDecideInOrder :   -- one descriptor for each branch; the earlier branches do not apply
    (presenting faultedOne ⟨0, 0, 0, 0, 0⟩).mode = .faulted ∧
      (encOne.mode ≠ .faulted ∧ legalW0 0x103 = false) ∧
      (legalW0 6 = true ∧ encOne.mode ≠ .dec) ∧ (legalW0 4 = true ∧ encOne.mode ≠ .dec) ∧
      (idleOne.mode = .idle ∧ idleOne.mode ≠ .enc ∧ idleOne.mode ≠ .faulted) ∧
      (legalW0 1 = true ∧ (15 : Word) ≠ 16) ∧
      (legalW0 3 = true ∧ encOne.mode = .enc ∧ inexactOverlap 0x2000 0x2001 2 = true) ∧
      (decOne.mode = .dec ∧ (17 : Word) ≠ 16) ∧
      (inexactOverlap 0x2000 0x2002 2 = false ∧ (presenting encOne ⟨3, 0x2000, 2, 0x2002, 0⟩).inbox = [.present ⟨3, 0x2000, 2, 0x2002, 0⟩]) := by
  decide +kernel

theorem witness_RoleViolationFaults : idleOne.mode = .idle ∧ encOne.mode = .enc ∧ decOne.mode = .dec := by decide +kernel

theorem witness_WrongNonceLengthFaults :
    encOne.mode ≠ .faulted ∧ idleOne.mode ≠ .faulted ∧ (0 : Word) ≠ 16 ∧ (15 : Word) ≠ 16 ∧ (17 : Word) ≠ 16 ∧ (0xFFFFFFFFFFFFFFFF : Word) ≠ 16 := by
  decide +kernel

theorem witness_InexactAliasingFaults :
    encOne.mode = .enc ∧ decOne.mode = .dec ∧ inexactOverlap 0x2000 0x2001 2 = true ∧ inexactOverlap 0x2001 0x2000 2 = true := by decide +kernel

theorem witness_AuthFailureDisturbsNothing :
    decTwo.mode = .dec ∧ (15 : Word) ≠ 16 ∧ (17 : Word) ≠ 16 ∧
      HostReady (.verify 0x5000 16 0 0) decTwo ∧ decTwo.memRead 0x5000 16 ≠ decTwo.tagValue.toList := by decide +kernel

theorem witness_FaultedIsSticky :
    (presenting faultedOne ⟨1, 0x1000, 16, 0, 0⟩).inbox = [.present ⟨1, 0x1000, 16, 0, 0⟩] ∧
      (presenting faultedOne ⟨1, 0x1000, 16, 0, 0⟩).mode = .faulted ∧ faultedOne.mode = .faulted ∧
      onNext (step (presenting faultedOne ⟨1, 0x1000, 16, 0, 0⟩)) (fun _ => true) = true := by decide +kernel

theorem witness_FaultsDependOnDescriptorAndMode :
    idleOne.mode = (board aesPort).mode ∧ idleOne.mode ≠ .faulted ∧
      onNext (exec (.encrypt 0x2000 8 0x3000 0) idleOne) (fun t => decide (t.mode = .faulted)) = true := by decide +kernel

theorem witness_ResponseCodes :   -- a next state for each code
    decTwo.mode ≠ .faulted ∧ onNext (exec (.verify 0x4000 16 0 0) decTwo) (fun t => decide (t.resp = some 0x00)) = true ∧
      onNext (exec (.verify 0x4000 15 0 0) decTwo) (fun t => decide (t.resp = some 0x01)) = true ∧
      onNext (exec (.initDec 0x1000 12 0 0) decTwo) (fun t => decide (t.resp = some 0x80)) = true ∧
      onNext (exec (.decrypt 0x3000 8 0x3001 0) decTwo) (fun t => decide (t.resp = some 0x81)) = true ∧
      onNext (exec (.encrypt 0x3000 8 0x3000 0) decTwo) (fun t => decide (t.resp = some 0x83)) = true := by decide +kernel

theorem witness_AdmittedCommandsComplete :
    HostReady (.initEnc 0x1000 16 0x1100 3) idleOne ∧ HostReady (.initDec 0x1000 16 0x1100 3) idleOne ∧
      HostReady (.encrypt 0x2000 8 0x2000 0) encOne ∧ HostReady (.decrypt 0x2000 8 0x3000 0) decOne ∧
      HostReady (.tag 0 0 0xFFFFFFFFFFFFFFF0 0) encOne ∧ HostReady (.verify 0x4000 16 0 0) decOne := by decide +kernel

theorem witness_ResetMoveRecovers :
    ({ faultedOne with inbox := [.reset] } : State).inbox = [.reset] ∧ ({ encOne with inbox := [.reset] } : State).inbox = [.reset] := by decide +kernel

theorem witness_ResetDuringCommandAbandonsIt :   -- a command that would run, and one that fails its mode check
    (∀ i, decode ⟨3, 0x2000, 8, 0x3000, 0⟩ = .ok i → HostReady i encOne) ∧
      ({ encOne with inbox := [.resetDuring ⟨3, 0x2000, 8, 0x3000, 0⟩] } : State).inbox = [.resetDuring ⟨3, 0x2000, 8, 0x3000, 0⟩] ∧
      (∀ r ∈ writeRegions (.encrypt 0x2000 8 0x3000 0), r.holds 0x3008 = false) ∧
      (∀ i, decode ⟨4, 0x2000, 8, 0x3000, 0⟩ = .ok i → HostReady i encOne ∧ allowedIn i encOne.mode = false) := by
  refine ⟨?_, by decide +kernel, by decide, ?_⟩
  · intro i hi
    obtain rfl : Instr.encrypt 0x2000 8 0x3000 0 = i := Except.ok.inj ((by decide : decode ⟨3, 0x2000, 8, 0x3000, 0⟩ = .ok (.encrypt 0x2000 8 0x3000 0)).symm.trans hi)
    decide +kernel
  · intro i hi
    obtain rfl : Instr.decrypt 0x2000 8 0x3000 0 = i := Except.ok.inj ((by decide : decode ⟨4, 0x2000, 8, 0x3000, 0⟩ = .ok (.decrypt 0x2000 8 0x3000 0)).symm.trans hi)
    decide +kernel

theorem witness_InitEncBuildsSession :   -- in IDLE, ENC and DEC; an empty AAD at the top of memory
    (idleOne.mode ≠ .faulted ∧ HostReady (.initEnc 0x1000 16 0x1100 3) idleOne) ∧
      (encOne.mode ≠ .faulted ∧ HostReady (.initEnc 0x1000 16 0x1100 3) encOne) ∧
      (decOne.mode ≠ .faulted ∧ HostReady (.initEnc 0x1000 16 0xFFFFFFFFFFFFFFFF 0) decOne) := by decide +kernel

theorem witness_InitDecDiffersInRoleOnly :
    (idleOne.mode ≠ .faulted ∧ HostReady (.initDec 0x1000 16 0x1100 3) idleOne) ∧
      (encOne.mode ≠ .faulted ∧ HostReady (.initDec 0x1000 16 0x1100 3) encOne) := by decide +kernel

theorem witness_InitForgetsEarlierSession :
    isInit (.initEnc 0x1000 16 0x1100 3) = true ∧ operandCheck (.initEnc 0x1000 16 0x1100 3) = .pass ∧ idleOne.mode ≠ .faulted ∧
      encOne.mode ≠ .faulted ∧ idleOne.fcode = encOne.fcode ∧ idleOne.mem = encOne.mem ∧ SamePlatform idleOne encOne ∧
      (∃ t, exec (.initEnc 0x1000 16 0x1100 3) idleOne = .next t) ∧ ∃ t, exec (.initEnc 0x1000 16 0x1100 3) encOne = .next t :=
  ⟨by decide, by decide, by decide +kernel, by decide +kernel, by decide +kernel, by decide +kernel, by unfold SamePlatform; decide +kernel,
    completes (by decide +kernel) (by decide +kernel) (by decide) (by decide +kernel),
    completes (by decide +kernel) (by decide +kernel) (by decide) (by decide +kernel)⟩

theorem witness_InitStartsTrackedSession :
    idleOne.mode ≠ .faulted ∧ HostReady (.initEnc 0x1000 16 0x1100 3) idleOne := by decide +kernel

theorem witness_EncryptResult :   -- two regions that touch, and one in place
    encOne.mode = .enc ∧ Memory.wf encOne.mem = true ∧
      (inexactOverlap 0x2000 0x2008 8 = false ∧ HostReady (.encrypt 0x2000 8 0x2008 5) encOne) ∧
      (inexactOverlap 0x2000 0x2000 8 = false ∧ HostReady (.encrypt 0x2000 8 0x2000 0) encOne) := by decide +kernel

theorem witness_DecryptResult :
    decOne.mode = .dec ∧ Memory.wf decOne.mem = true ∧
      (inexactOverlap 0x2000 0x2008 8 = false ∧ HostReady (.decrypt 0x2000 8 0x2008 5) decOne) ∧
      (inexactOverlap 0x2000 0x2000 8 = false ∧ HostReady (.decrypt 0x2000 8 0x2000 0) decOne) := by decide +kernel

theorem witness_DecryptIsEncryptInTheOtherMode :
    encOne.mode = .enc ∧ inexactOverlap 0x2000 0x3000 8 = false ∧ HostReady (.encrypt 0x2000 8 0x3000 0) encOne := by decide +kernel

theorem witness_EmptyDataChangesNothing :
    encOne.gbuf.length < 16 ∧ encOne.mode = .enc ∧ decOne.gbuf.length < 16 ∧ decOne.mode = .dec := by decide +kernel

theorem witness_DataExtendsTrackedSession :   -- the clause on every step, then that on data commands in each mode
    (SessionOf encNext (pad16 nonceBytes) [] [] ∧ onNext (step encNext) (fun t => decide (t.mode ≠ .faulted)) = true ∧
      ∀ move rest, encNext.inbox = move :: rest → move.assertsReset = false ∧
        ∀ d i, move.descriptor = some d → decode d = .ok i → isInit i = false) ∧
    (SessionOf encOne (pad16 nonceBytes) [] [] ∧ Memory.wf encOne.mem = true ∧ inexactOverlap 0x2000 0x3000 20 = false ∧
      HostReady (.encrypt 0x2000 20 0x3000 0) encOne ∧ encOne.mode = .enc) ∧
    (SessionOf decOne (pad16 nonceBytes) [] [] ∧ Memory.wf decOne.mem = true ∧
      HostReady (.encrypt 0x2000 20 0x3000 0) decOne ∧ decOne.mode = .dec) :=
  ⟨⟨encNext_session, by decide +kernel, encNext_move⟩,
    ⟨encOne_session, by decide +kernel, by decide, by decide +kernel, by decide +kernel⟩,
    ⟨decOne_session, by decide +kernel, by decide +kernel, by decide +kernel⟩⟩

theorem witness_ChunkIndependence :   -- chunks of three, none and five bytes
    ([3, 0, 5] : List Word) ≠ [] ∧ (([3, 0, 5] : List Word).map BitVec.toNat).sum < 2 ^ 64 ∧
      inexactOverlap 0x2000 0x3000 ([3, 0, 5] : List Word).sum = false ∧
      ∀ s ∈ [encOne, decOne], Memory.wf s.mem = true ∧ (s.mode = .enc ∨ s.mode = .dec) ∧
        HostReady (.encrypt 0x2000 ([3, 0, 5] : List Word).sum 0x3000 0) s ∧
        ∀ before n after, ([3, 0, 5] : List Word) = before ++ n :: after →
          HostReady (.encrypt (0x2000 + before.sum) n (0x3000 + before.sum) 0) s := by
  refine ⟨by decide, by decide, by decide, fun s hs => ⟨?_, ?_, ?_, ?_⟩⟩
  · revert s; decide +kernel
  · revert s; decide +kernel
  · revert s; decide +kernel
  · intro before n after h
    obtain _ | ⟨x, _ | ⟨y, _ | ⟨z, rest⟩⟩⟩ := before
    · obtain ⟨rfl, -⟩ : 3 = n ∧ _ := by simpa using h
      revert s; decide +kernel
    · obtain ⟨rfl, rfl, -⟩ : 3 = x ∧ 0 = n ∧ _ := by simpa using h
      revert s; decide +kernel
    · obtain ⟨rfl, rfl, rfl, -⟩ : 3 = x ∧ 0 = y ∧ 5 = n ∧ _ := by simpa using h
      revert s; decide +kernel
    · simp at h

theorem witness_DecryptUndoesEncrypt :
    SessionOf encOne (pad16 nonceBytes) [] [] ∧ SessionOf decTwo (pad16 nonceBytes) [] [] ∧ encOne.mode = .enc ∧ decTwo.mode = .dec ∧
      decTwo.cipher = encOne.cipher ∧ ([] : List Byte).length = ([] : List Byte).length ∧ Memory.wf encOne.mem = true ∧ Memory.wf decTwo.mem = true ∧
      inexactOverlap 0x2000 0x3000 8 = false ∧ inexactOverlap 0x3000 0x5000 8 = false ∧
      HostReady (.encrypt 0x2000 8 0x3000 0) encOne ∧ HostReady (.decrypt 0x3000 8 0x5000 0) decTwo ∧
      ∃ t, exec (.encrypt 0x2000 8 0x3000 0) encOne = .next t ∧ decTwo.memRead 0x3000 8 = t.memRead 0x3000 8 :=
  ⟨encOne_session, decTwo_session, by decide +kernel, by decide +kernel, by decide +kernel, rfl, by decide +kernel, by decide +kernel, by decide,
    by decide, by decide +kernel, by decide +kernel, cryptData 0x2000 8 0x3000 encOne,
    exec_of_ready (by decide +kernel) (by decide +kernel) (by decide) (by decide +kernel), by decide +kernel⟩

theorem witness_TagWritesTagValue :
    (encOne.mode = .enc ∧ Memory.wf encOne.mem = true ∧ HostReady (.tag 1 2 0x4000 3) encOne) ∧
      (decOne.mode = .dec ∧ Memory.wf decOne.mem = true ∧ HostReady (.tag 0 0 0xFFFFFFFFFFFFFFF0 0) decOne) := by decide +kernel

theorem witness_TagIsRepeatable :
    (encOne.gh = FE.zero ∧ encOne.gbuf = [] ∧ encOne.aadlen = 0 ∧ encOne.datalen = 0) ∧
      (encOne.mode.live = true ∧ ∃ t, exec (.tag 0 0 0x4000 0) encOne = .next t) ∧
      (decOne.mode = .dec ∧ ∃ t, exec (.verify 0x4000 16 0 0) decOne = .next t) :=
  ⟨by decide +kernel,
    ⟨by decide +kernel, completes (by decide +kernel) (by decide +kernel) (by decide) (by decide +kernel)⟩,
    ⟨by decide +kernel, completes (by decide +kernel) (by decide +kernel) (by decide) (by decide +kernel)⟩⟩

theorem witness_SessionTagIsDetermined :
    SessionOf encOne (pad16 nonceBytes) [] [] ∧ SessionOf decTwo (pad16 nonceBytes) [] [] ∧ encOne.E = decTwo.E :=
  ⟨encOne_session, decTwo_session, by
    unfold State.E; rw [(by decide +kernel : encOne.cipher = decTwo.cipher)]⟩

theorem witness_VerifyAnswers :   -- the session's own tag, and another candidate
    decTwo.mode = .dec ∧ (HostReady (.verify 0x4000 16 0 0) decTwo ∧ decTwo.memRead 0x4000 16 = decTwo.tagValue.toList) ∧
      (HostReady (.verify 0x5000 16 0 0) decTwo ∧ decTwo.memRead 0x5000 16 ≠ decTwo.tagValue.toList) := by decide +kernel

/-- `decTwo` with the lowest bit of the last byte of the tag at 0x4000 flipped. -/
def decFlipped : State := decTwo.memWrite 0x400f [decTwo.tmask[15] ^^^ 1]

theorem witness_VerifyIsSound :   -- a candidate that is the tag, and one that differs in one bit
    (decTwo.mode = .dec ∧ HostReady (.verify 0x4000 16 0 0) decTwo ∧ decTwo.memRead 0x4000 16 = decTwo.tagValue.toList) ∧
      (decFlipped.mode = .dec ∧ HostReady (.verify 0x4000 16 0 0) decFlipped ∧
        decFlipped.memRead 0x4000 16 = (decFlipped.tagValue.set 15 (decFlipped.tagValue[15] ^^^ ((1 : Byte) <<< 0))).toList ∧ (15 : Nat) < 16 ∧ (0 : Nat) < 8) := by
  decide +kernel

theorem witness_ModeTransitions :   -- a faulted core, each command completing, and a new fault
    (faultedOne.mode = .faulted ∧ onNext (exec (.tag 0 0 0x4000 0) faultedOne) (fun t => decide (t.mode = .faulted)) = true) ∧
      onNext (exec (.initEnc 0x1000 16 0 0) idleOne) (fun t => decide (t.mode ≠ .faulted)) = true ∧
      onNext (exec (.initDec 0x1000 16 0 0) encOne) (fun t => decide (t.mode ≠ .faulted)) = true ∧
      onNext (exec (.encrypt 0x2000 8 0x3000 0) encOne) (fun t => decide (t.mode ≠ .faulted)) = true ∧
      onNext (exec (.decrypt 0x2000 8 0x3000 0) decOne) (fun t => decide (t.mode ≠ .faulted)) = true ∧
      onNext (exec (.tag 0 0 0x4000 0) encOne) (fun t => decide (t.mode ≠ .faulted)) = true ∧
      onNext (exec (.verify 0x4000 16 0 0) decOne) (fun t => decide (t.mode ≠ .faulted)) = true ∧
      (idleOne.mode ≠ .faulted ∧ onNext (exec (.tag 0 0 0x4000 0) idleOne) (fun t => decide (t.mode = .faulted)) = true) := by decide +kernel

theorem witness_SessionConstantsAreFixed :
    encNext.mode.live = true ∧ onNext (step encNext) (fun _ => true) = true ∧
      ∀ move rest, encNext.inbox = move :: rest → move.assertsReset = false ∧
        ∀ d i, move.descriptor = some d → decode d = .ok i → isInit i = false :=
  ⟨by decide +kernel, by decide +kernel, encNext_move⟩

/-- A live session about to take a data command meets the invariant and has a next state. -/
theorem witness_StepKeepsInvariant :
    (presenting encOne ⟨3, 0x2000, 8, 0x3000, 0⟩).Inv ∧ onNext (step (presenting encOne ⟨3, 0x2000, 8, 0x3000, 0⟩)) (fun _ => true) = true := by
  refine ⟨?_, by decide +kernel⟩
  constructor
  case response =>
    intro code h
    obtain rfl : 0 = code := Option.some.inj ((by decide +kernel : (presenting encOne ⟨3, 0x2000, 8, 0x3000, 0⟩).resp = some 0).symm.trans h)
    decide
  all_goals decide +kernel

end Sys2Proof.Tests
end

/-!
R30: what a command other than `INIT_*`, and a step that neither resets nor starts a session, leaves of the registers that are fixed within a session.
-/

namespace Sys2Proof.Machine

/-! ### Bytes 0..11 of the counter block -/

/-- R110: `inc32` changes the 32-bit tail only. -/
@[simp] theorem counterHead_inc32 (c : Block) : counterHead (inc32 c) = counterHead c := by
  refine Vector.ext fun i hi => ?_
  have hhead : (inc32 c)[i] = (counterHead c)[i] := Vector.getElem_append_left hi
  simpa [counterHead] using hhead

@[simp] theorem counterHead_cryptBlocks (E : Block → Block) (k : Nat) (ctr : Block) (xm inp : List Byte) :
    counterHead (cryptBlocks E k ctr xm inp).ctr = counterHead ctr := by
  induction k generalizing ctr xm inp with
  | zero => rfl
  | succ k ih =>
    unfold cryptBlocks
    split
    · rfl
    · simp [ih]

/-- R113: a counter block is only ever advanced by `inc32`. -/
@[simp] theorem State.counterHead_counterCrypt (s : State) (inp : List Byte) :
    counterHead (s.counterCrypt inp).ctr = counterHead s.ctr :=
  counterHead_cryptBlocks ..

/-! ### The constants of a session -/

/-- The registers that R30 fixes within a session are as before. -/
def SameSessionConstants (s t : State) : Prop :=
  t.tmask = s.tmask ∧ t.pt = s.pt ∧ t.aadlen = s.aadlen ∧ counterHead t.ctr = counterHead s.ctr

theorem State.respond_sameSessionConstants (s : State) (code : Byte) : SameSessionConstants s (s.respond code) :=
  ⟨rfl, rfl, rfl, rfl⟩

theorem State.raiseFault_sameSessionConstants (s : State) (code : Byte) : SameSessionConstants s (s.raiseFault code) :=
  ⟨rfl, rfl, rfl, rfl⟩

theorem commandBody_sameSessionConstants {i : Instr} (hi : isInit i = false) (s : State) :
    SameSessionConstants s (commandBody i s) := by
  cases i with
  | initEnc | initDec => simp [isInit] at hi
  | encrypt | decrypt | tag | verify => simp [SameSessionConstants, commandBody]

theorem exec_sameSessionConstants {i : Instr} {s t : State} (hi : isInit i = false) (h : exec i s = .next t) :
    SameSessionConstants s t := by
  obtain ⟨-, he⟩ | ⟨-, -, he⟩ | ⟨-, -, ⟨code, -, he⟩ | ⟨code, -, he⟩ | ⟨-, why, -, he⟩ | ⟨-, -, he⟩⟩ := exec_cases i s <;>
    rw [he] at h <;> cases h
  · exact s.respond_sameSessionConstants s.fcode
  · exact s.raiseFault_sameSessionConstants _
  · exact s.raiseFault_sameSessionConstants code
  · exact s.respond_sameSessionConstants code
  · exact commandBody_sameSessionConstants hi s

theorem illegalCommand_sameSessionConstants (s : State) : SameSessionConstants s (illegalCommand s) := by
  unfold illegalCommand
  split
  · exact s.respond_sameSessionConstants s.fcode
  · exact s.raiseFault_sameSessionConstants _

theorem runDescriptor_sameSessionConstants {d : Descriptor} {s t : State} (hd : ∀ i, decode d = .ok i → isInit i = false)
    (h : runDescriptor d s = .next t) : SameSessionConstants s t := by
  unfold runDescriptor at h
  split at h
  · next i hi => exact exec_sameSessionConstants (hd i hi) h
  · cases h
    exact illegalCommand_sameSessionConstants s

/-- One step, in any mode: a move that neither asserts reset nor presents an `INIT_*` keeps what R30 fixes. -/
theorem step_sameSessionConstants {s t : State} (h : step s = .next t)
    (hmove : ∀ move rest, s.inbox = move :: rest → move.assertsReset = false ∧
      ∀ d i, move.descriptor = some d → decode d = .ok i → isInit i = false) :
    SameSessionConstants s t := by
  obtain ⟨-, hs⟩ | ⟨d, rest, hi, hs⟩ | ⟨addr, v, rest, hi, hs⟩ | ⟨rest, hi, hs⟩ | ⟨d, rest, hi, hs⟩ | ⟨port, rest, hi, hs⟩ |
    ⟨port, d, rest, hi, hs⟩ := step_cases s <;> rw [hs] at h
  · cases h
    exact ⟨rfl, rfl, rfl, rfl⟩
  · exact runDescriptor_sameSessionConstants (s := { s with inbox := rest }) (fun i => (hmove _ _ hi).2 d i rfl) h
  · cases h
    exact ⟨rfl, rfl, rfl, rfl⟩
  · cases (hmove _ _ hi).1
  · cases (hmove _ _ hi).1
  · obtain ⟨-, hc⟩ | ⟨-, -, hc⟩ := connectCipherMove_cases port { s with inbox := rest } <;> rw [hc] at h <;> cases h
    exact ⟨rfl, rfl, rfl, rfl⟩
  · obtain ⟨-, hr⟩ | ⟨-, -, -, hr⟩ := rekeyMove_cases port d { s with inbox := rest } <;> rw [hr] at h
    · exact runDescriptor_sameSessionConstants (s := { s with inbox := rest, cipher := port })
        (fun i => (hmove _ _ hi).2 d i rfl) h
    · cases h

/-- Settles O58: a step that brings no reset and no `INIT_*` keeps the constants of R30, whatever the mode and whether or not it faults. -/
theorem sessionConstantsAreFixed : Obligations.SessionConstantsAreFixed := by
  unfold Obligations.SessionConstantsAreFixed
  intro s t _ hstep hmove
  exact step_sameSessionConstants hstep hmove

end Sys2Proof.Machine

/-!
R41: what `MemRead` returns after a `MemWrite`, inside and outside the bytes written.
-/

namespace Sys2Proof.Machine

/-- R48: an address of a region that does not wrap is its start plus the offset. -/
theorem toNat_add_offset {addr : Word} {i n : Nat} (hi : i < n) (hn : addr.toNat + n ≤ 2 ^ 64) :
    (addr + BitVec.ofNat 64 i).toNat = addr.toNat + i := by
  rw [BitVec.toNat_add, BitVec.toNat_ofNat]
  omega

/-- `MemWrite` of at most `2^64` bytes meets no address twice, so every one of them reads back, whether or not the region wraps. -/
theorem Memory.readByte_writeFrom_getElem {m : Memory} {addr : Word} {bs : List Byte} {i : Nat} (hwf : Memory.wf m = true)
    (hlen : bs.length ≤ 2 ^ 64) (hi : i < bs.length) :
    Memory.readByte (Memory.writeFrom m addr bs) (addr + BitVec.ofNat 64 i).toNat = bs[i] := by
  induction bs generalizing m addr i with
  | nil => simp at hi
  | cons b bs ih =>
    rw [List.length_cons] at hlen hi
    rw [Memory.writeFrom]
    cases i with
    | zero =>
      have hnext : ∀ j < bs.length, addr ≠ addr + 1 + BitVec.ofNat 64 j := by
        intro j hj
        bv_omega
      rw [BitVec.add_zero, Memory.readByte_writeFrom_other _ _ _ _ hnext]
      exact Memory.readByte_writeByte_self ((Memory.wf_iff_above m).1 hwf)
    | succ i =>
      have haddr : addr + BitVec.ofNat 64 (i + 1) = addr + 1 + BitVec.ofNat 64 i := by
        rw [BitVec.ofNat_add]
        ac_rfl
      rw [haddr, List.getElem_cons_succ]
      exact ih (Memory.wf_writeByte m addr b hwf) (by omega) (by omega)

theorem State.readByte_memWrite_getElem (s : State) {addr : Word} {bs : List Byte} {i : Nat} (hwf : Memory.wf s.mem = true)
    (hlen : bs.length ≤ 2 ^ 64) (hi : i < bs.length) :
    (s.memWrite addr bs).readByte (addr + BitVec.ofNat 64 i) = bs[i] :=
  Memory.readByte_writeFrom_getElem hwf hlen hi

/-- The frame of `MemWrite`, for a region that does not wrap. -/
theorem State.readByte_memWrite_outside (s : State) {addr a : Word} {bs : List Byte} (hwrap : addr.toNat + bs.length ≤ 2 ^ 64)
    (ha : a.toNat < addr.toNat ∨ addr.toNat + bs.length ≤ a.toNat) :
    (s.memWrite addr bs).readByte a = s.readByte a := by
  refine Memory.readByte_writeFrom_other s.mem addr bs a fun i hi heq => ?_
  have hnat := toNat_add_offset hi hwrap
  rw [← heq] at hnat
  omega

@[simp] theorem State.memRead_zero (s : State) (addr : Word) : s.memRead addr 0 = [] := rfl

@[simp] theorem State.memWrite_nil (s : State) (addr : Word) : s.memWrite addr [] = s := rfl

/-- Settles O18: reads by `memRead_getElem`, writes by induction over the bytes written, and the frame because no written address lies outside. -/
theorem memoryReadsBackWrites : Obligations.MemoryReadsBackWrites := by
  unfold Obligations.MemoryReadsBackWrites
  refine ⟨fun s addr n _ => ⟨s.memRead_length addr n, s.memRead_getElem addr n⟩, ?_,
    fun s addr => ⟨s.memRead_zero addr, s.memWrite_nil addr⟩⟩
  intro s addr bs hwf hwrap
  exact ⟨fun i hi => s.readByte_memWrite_getElem hwf (by omega) hi, fun a ha => s.readByte_memWrite_outside hwrap ha⟩

end Sys2Proof.Machine

/-!
R66: `exec` looks at a command through its mode check, its operand check, its regions and its body; a word that none of the four reads has no effect.
-/

namespace Sys2Proof.Machine

/-- Commands that agree in what `exec` reads of a command have the same outcome on every state. -/
theorem exec_congr {i j : Instr} (hmode : allowedIn i = allowedIn j) (hcheck : operandCheck i = operandCheck j)
    (hregions : regionsOf i = regionsOf j) (hbody : commandBody i = commandBody j) (s : State) : exec i s = exec j s := by
  rw [exec_eq_runCommand, exec_eq_runCommand]
  unfold runCommand
  rw [hmode, hcheck, hregions, hbody]

theorem exec_encrypt_ignores_bLen (s : State) (aAddr aLen bAddr bLen bLen' : Word) :
    exec (.encrypt aAddr aLen bAddr bLen) s = exec (.encrypt aAddr aLen bAddr bLen') s :=
  exec_congr rfl rfl rfl rfl s

theorem exec_decrypt_ignores_bLen (s : State) (aAddr aLen bAddr bLen bLen' : Word) :
    exec (.decrypt aAddr aLen bAddr bLen) s = exec (.decrypt aAddr aLen bAddr bLen') s :=
  exec_congr rfl rfl rfl rfl s

theorem exec_tag_reads_bAddr_only (s : State) (aAddr aLen bAddr bLen aAddr' aLen' bLen' : Word) :
    exec (.tag aAddr aLen bAddr bLen) s = exec (.tag aAddr' aLen' bAddr bLen') s :=
  exec_congr rfl rfl rfl rfl s

theorem exec_verify_ignores_bAddr_bLen (s : State) (aAddr aLen bAddr bLen bAddr' bLen' : Word) :
    exec (.verify aAddr aLen bAddr bLen) s = exec (.verify aAddr aLen bAddr' bLen') s :=
  exec_congr rfl rfl rfl rfl s

/-- Settles O25: for each command, the four things `exec` reads of it do not mention the words its row of R62 marks "ignored". -/
theorem ignoredWordsHaveNoEffect : Obligations.IgnoredWordsHaveNoEffect := by
  unfold Obligations.IgnoredWordsHaveNoEffect
  intro s aAddr aLen bAddr bLen aAddr' aLen' bAddr' bLen'
  exact ⟨exec_encrypt_ignores_bLen s aAddr aLen bAddr bLen bLen',
    exec_decrypt_ignores_bLen s aAddr aLen bAddr bLen bLen',
    exec_tag_reads_bAddr_only s aAddr aLen bAddr bLen aAddr' aLen' bLen',
    exec_verify_ignores_bAddr_bLen s aAddr aLen bAddr bLen bAddr' bLen'⟩

end Sys2Proof.Machine

/-!
R80: `bitrev4` is the reversal of the four bits.
-/

namespace Sys2Proof.Machine

/-- R80 bit by bit. -/
theorem getLsbD_bitrev4 (i : Nibble) {j : Nat} (hj : j < 4) : (bitrev4 i).getLsbD j = i.getLsbD (3 - j) := by
  interval_cases j <;> simp [bitrev4]

@[simp] theorem bitrev4_bitrev4 (i : Nibble) : bitrev4 (bitrev4 i) = i := by
  refine BitVec.eq_of_getLsbD_eq fun j hj => ?_
  rw [getLsbD_bitrev4 _ hj, getLsbD_bitrev4 _ (by omega), show 3 - (3 - j) = j by omega]

theorem bitrev4_injective : Function.Injective bitrev4 :=
  Function.Involutive.injective bitrev4_bitrev4

@[simp] theorem bitrev4_zero : bitrev4 0 = 0 := by decide

theorem bitrev4_ne_zero {k : Nibble} (hk : k ≠ 0) : bitrev4 k ≠ 0 := by
  rw [← bitrev4_zero]
  exact bitrev4_injective.ne hk

/-- Settles O1: `bitrev4` reverses the bits, so it is an involution; its fixed points are among sixteen indices. -/
theorem bitrevReversesTheNibble : Obligations.BitrevReversesTheNibble := by
  unfold Obligations.BitrevReversesTheNibble
  refine ⟨fun i _ hj => getLsbD_bitrev4 i hj, bitrev4_bitrev4, ?_⟩
  decide

end Sys2Proof.Machine

/-!
R81, R82: `add` and `double` as operations on the 128-bit value and on the coefficients of R12.
-/

namespace Sys2Proof

open Machine

/-! ### Coefficients -/

/-- R12 on the 128-bit value `low * 2^64 + high`: the coefficients run from its top bit down. -/
theorem FE.coeff_eq_getLsbD (x : FE) {i : Nat} (hi : i < 128) : x.coeff i = (x.low ++ x.high).getLsbD (127 - i) := by
  rw [BitVec.getLsbD_append, FE.coeff]
  split
  · next h => rw [if_neg (by omega), show 127 - i - 64 = 63 - i by omega]
  · next h => rw [if_pos (by omega)]

/-- A field element is determined by its coefficients. -/
theorem FE.ext_coeff {x y : FE} (h : ∀ i < 128, x.coeff i = y.coeff i) : x = y := by
  have hlow : x.low = y.low := BitVec.eq_of_getLsbD_eq fun j hj => by
    simpa [FE.coeff, show 63 - j < 64 by omega, show 63 - (63 - j) = j by omega] using h (63 - j) (by omega)
  have hhigh : x.high = y.high := BitVec.eq_of_getLsbD_eq fun j hj => by
    simpa [FE.coeff, show ¬ 127 - j < 64 by omega, show 127 - (127 - j) = j by omega] using h (127 - j) (by omega)
  cases x
  cases y
  exact congrArg₂ FE.mk hlow hhigh

@[simp] theorem FE.coeff_zero (i : Nat) : FE.zero.coeff i = false := by simp [FE.coeff, FE.zero]

@[simp] theorem FE.coeff_add (x y : FE) (i : Nat) : (add x y).coeff i = (x.coeff i ^^ y.coeff i) := by
  unfold FE.coeff add
  split <;> exact BitVec.getLsbD_xor

/-! ### Addition -/

theorem FE.add_comm (x y : FE) : add x y = add y x := by simp only [add, BitVec.xor_comm]

theorem FE.add_assoc (x y z : FE) : add (add x y) z = add x (add y z) := by simp only [add, BitVec.xor_assoc]

@[simp] theorem FE.add_self (x : FE) : add x x = FE.zero := by simp [add, FE.zero]

@[simp] theorem FE.add_zero (x : FE) : add x FE.zero = x := by simp [add, FE.zero]

@[simp] theorem FE.zero_add (x : FE) : add FE.zero x = x := by rw [FE.add_comm, FE.add_zero]

/-- Settles O2: XOR of words is commutative, associative and its own inverse. -/
theorem addIsFieldAddition : Obligations.AddIsFieldAddition := by
  unfold Obligations.AddIsFieldAddition
  exact fun x y z => ⟨rfl, x.add_comm y, x.add_assoc y z, x.add_self, x.add_zero⟩

/-! ### Doubling -/

/-- Both halves shifted down by `k`, the low bits of `low` entering at the top of `high`, are one 128-bit shift. -/
theorem append_ushiftRight (low high : Word) {k : Nat} (hk : k < 64) :
    low >>> k ++ (high >>> k ||| low <<< (64 - k)) = (low ++ high : BitVec 128) >>> k := by
  refine BitVec.eq_of_getLsbD_eq fun j hj => ?_
  simp only [BitVec.getLsbD_append, BitVec.getLsbD_or, BitVec.getLsbD_ushiftRight, BitVec.getLsbD_shiftLeft]
  obtain h | h | h : k + j < 64 ∨ j < 64 ∧ 64 ≤ k + j ∨ 64 ≤ j := by omega
  · simp [h, show j < 64 by omega, show j < 64 - k by omega]
  · simp [h, show ¬ k + j < 64 by omega, show ¬ j < 64 - k by omega, show j - (64 - k) = k + j - 64 by omega]
  · simp [show ¬ j < 64 by omega, show ¬ k + j < 64 by omega, show k + j - 64 = k + (j - 64) by omega]

/-- Shifting the 128-bit value down by `k` moves every coefficient `k` degrees up. -/
theorem FE.getLsbD_append_ushiftRight (x : FE) (k : Nat) {i : Nat} (hi : i < 128) :
    ((x.low ++ x.high) >>> k).getLsbD (127 - i) = (decide (k ≤ i) && x.coeff (i - k)) := by
  rw [BitVec.getLsbD_ushiftRight]
  by_cases h : k ≤ i
  · simp [h, x.coeff_eq_getLsbD (show i - k < 128 by omega), show k + (127 - i) = 127 - (i - k) by omega]
  · simp [h, BitVec.getLsbD_of_ge (x.low ++ x.high) (k + (127 - i)) (by omega)]

/-- R82 as one operation on the 128-bit value: shift right, and fold the bit pushed out back in as `0xE1` at the top. -/
theorem FE.append_double (x : FE) : (double x).low ++ (double x).high =
    ((x.low ++ x.high) >>> 1) ^^^ (if x.high.getLsbD 0 then (0xE1 : BitVec 128) <<< 120 else 0) := by
  have hodd : x.high &&& 1 = 1 ↔ x.high.getLsbD 0 = true := by
    rw [show (1 : Word) = 1#64 from rfl, BitVec.and_one_eq_setWidth_ofBool_getLsbD]
    cases x.high.getLsbD 0 <;> decide
  have hfold : (0xE100000000000000 : Word) ++ (0 : Word) = (0xE1 : BitVec 128) <<< 120 := by decide
  simp only [double]
  split
  · next h =>
    rw [if_pos (hodd.1 h), ← append_ushiftRight _ _ (k := 1) (by omega), ← hfold, BitVec.xor_append]
    simp
  · next h =>
    rw [if_neg (mt hodd.2 h), ← append_ushiftRight _ _ (k := 1) (by omega)]
    simp

/-- The top byte `0xE1` is `x^7 + x^2 + x + 1` in the bit order of R12. -/
theorem getLsbD_reduction {i : Nat} (hi : i < 128) :
    ((0xE1 : BitVec 128) <<< 120).getLsbD (127 - i) = decide (i = 0 ∨ i = 1 ∨ i = 2 ∨ i = 7) := by
  decide +revert

/-- R82 on the coefficients: one degree up, and `x^128` becomes `x^7 + x^2 + x + 1`. -/
theorem FE.coeff_double (x : FE) {i : Nat} (hi : i < 128) : (double x).coeff i =
    ((decide (0 < i) && x.coeff (i - 1)) ^^ (x.coeff 127 && decide (i = 0 ∨ i = 1 ∨ i = 2 ∨ i = 7))) := by
  have htop : x.coeff 127 = x.high.getLsbD 0 := rfl
  have hshift : ((x.low ++ x.high) >>> 1).getLsbD (127 - i) = (decide (0 < i) && x.coeff (i - 1)) :=
    x.getLsbD_append_ushiftRight 1 hi
  rw [FE.coeff_eq_getLsbD _ hi, FE.append_double, BitVec.getLsbD_xor, hshift, ← htop, ← getLsbD_reduction hi]
  cases x.coeff 127 <;> simp

/-- Settles O3: the shift of the 128-bit value by `append_double`, read off at the coefficients. -/
theorem doubleMultipliesByX : Obligations.DoubleMultipliesByX := by
  unfold Obligations.DoubleMultipliesByX
  exact fun x => ⟨x.append_double, fun i hi => x.coeff_double hi⟩

end Sys2Proof

/-!
R85, R86: the multiples `k·H`, and the table that holds them after `BuildTable`.
-/

namespace Sys2Proof.Machine

/-! ### Multiples -/

theorem double_add (x y : FE) : double (add x y) = add (double x) (double y) := by
  refine FE.ext_coeff fun i hi => ?_
  simp only [FE.coeff_add, FE.coeff_double _ hi, Bool.and_xor_distrib_left, Bool.and_xor_distrib_right, Bool.xor_assoc,
    Bool.xor_left_comm]

@[simp] theorem double_zero : double FE.zero = FE.zero := by decide

theorem double_ite_zero (c : Bool) (x : FE) :
    double (if c = true then x else FE.zero) = if c = true then double x else FE.zero := by
  cases c <;> simp

@[simp] theorem multipleOf_zero (H : FE) : multipleOf 0 H = FE.zero := by simp [multipleOf]

@[simp] theorem multipleOf_one (H : FE) : multipleOf 1 H = H := by simp [multipleOf]

/-- R86: an even `i` is `x` times `i/2`. -/
theorem multipleOf_even {i : Nibble} (hi : i.getLsbD 0 = false) (H : FE) :
    multipleOf i H = double (multipleOf (i >>> 1) H) := by
  simp only [multipleOf, double_add, double_ite_zero, hi]
  simp

/-- R86: an odd `i` is the even below it plus 1. -/
theorem multipleOf_succ {i : Nibble} (hi : i.getLsbD 0 = false) (H : FE) :
    multipleOf (i + 1) H = add (multipleOf i H) H := by
  have hbits : (i + 1).getLsbD 0 = true ∧ (i + 1).getLsbD 1 = i.getLsbD 1 ∧ (i + 1).getLsbD 2 = i.getLsbD 2 ∧
      (i + 1).getLsbD 3 = i.getLsbD 3 := by decide +revert
  obtain ⟨h0, h1, h2, h3⟩ := hbits
  simp only [multipleOf, hi, h0, h1, h2, h3, if_true]
  simp [FE.add_comm]

/-! ### The table -/

/-- `pt` holds the multiples of `H` below `n`, each at its bit-reversed index. -/
def ProductTable.HoldsBelow (pt : ProductTable) (H : FE) (n : Nat) : Prop :=
  ∀ k : Nibble, k.toNat < n → pt.read (bitrev4 k) = multipleOf k H

theorem ProductTable.read_write_bitrev4_self (pt : ProductTable) {i : Nibble} (v : FE) (hi : i ≠ 0) :
    (pt.write (bitrev4 i) v).read (bitrev4 i) = v :=
  pt.read_write_self _ v (bitrev4_ne_zero hi)

theorem ProductTable.read_write_bitrev4_other (pt : ProductTable) {i k : Nibble} (v : FE) (h : i ≠ k) :
    (pt.write (bitrev4 i) v).read (bitrev4 k) = pt.read (bitrev4 k) :=
  pt.read_write_other _ _ v (bitrev4_injective.ne h)

/-- Writing the multiple `i·H` extends what the table holds by one. -/
theorem ProductTable.HoldsBelow.write {pt : ProductTable} {H v : FE} {i : Nibble} (h : pt.HoldsBelow H i.toNat)
    (hi : i ≠ 0) (hv : v = multipleOf i H) : (pt.write (bitrev4 i) v).HoldsBelow H (i.toNat + 1) := by
  intro k hk
  by_cases hki : i = k
  · subst hki
    rw [pt.read_write_bitrev4_self v hi, hv]
  · rw [pt.read_write_bitrev4_other v hki]
    refine h k ?_
    bv_omega

/-- Before the loop of R85: `0·H` is hardwired, `1·H` has been written. -/
theorem ProductTable.holdsBelow_write_one (old : ProductTable) (H : FE) : (old.write (bitrev4 1) H).HoldsBelow H 2 := by
  refine ProductTable.HoldsBelow.write (i := 1) (fun k hk => ?_) (by decide) (multipleOf_one H).symm
  obtain rfl : k = 0 := by bv_omega
  rw [bitrev4_zero, ProductTable.read_zero, multipleOf_zero]

/-- One round of the loop of R85, for an even index. -/
theorem holdsBelow_buildPair {pt : ProductTable} {H : FE} {i : Nibble} (h : pt.HoldsBelow H i.toNat) (hi : i ≠ 0)
    (heven : i.getLsbD 0 = false) : (buildPair H pt i).HoldsBelow H (i.toNat + 2) := by
  have hhalf : (i >>> 1).toNat < i.toNat := by
    clear h
    decide +revert
  have hsucc : (i + 1).toNat = i.toNat + 1 := by
    clear h
    decide +revert
  have hdouble := h.write hi (v := double (pt.read (bitrev4 (i >>> 1)))) (by rw [h _ hhalf, multipleOf_even heven])
  have hadd : (buildPair H pt i).HoldsBelow H ((i + 1).toNat + 1) := by
    refine ProductTable.HoldsBelow.write (hsucc ▸ hdouble) (by bv_omega) ?_
    rw [hdouble i (by omega), multipleOf_succ heven]
  rwa [hsucc] at hadd

/-- The loop of R85 after `n` of its seven rounds. -/
theorem holdsBelow_foldl_buildPair {pt : ProductTable} {H : FE} (h : pt.HoldsBelow H 2) {n : Nat} (hn : n ≤ 7) :
    (((List.range n).map fun j => BitVec.ofNat 4 (2 * j + 2)).foldl (buildPair H) pt).HoldsBelow H (2 * n + 2) := by
  induction n with
  | zero => exact h
  | succ n ih =>
    have hi : (BitVec.ofNat 4 (2 * n + 2)).toNat = 2 * n + 2 := by
      rw [BitVec.toNat_ofNat]
      omega
    have heven : (BitVec.ofNat 4 (2 * n + 2)).getLsbD 0 = false := by
      rw [BitVec.getLsbD, hi, Nat.testBit_zero, decide_eq_false_iff_not]
      omega
    rw [List.range_succ, List.map_append, List.foldl_append, show 2 * (n + 1) + 2 = 2 * n + 2 + 2 by ring, ← hi]
    exact holdsBelow_buildPair (hi.symm ▸ ih (by omega)) (by bv_omega) heven

theorem buildTable_holdsBelow (old : ProductTable) (H : FE) : (buildTable old H).HoldsBelow H 16 :=
  holdsBelow_foldl_buildPair (old.holdsBelow_write_one H) (n := 7) (by omega)

theorem buildTable_read_bitrev4 (old : ProductTable) (H : FE) (k : Nibble) :
    (buildTable old H).read (bitrev4 k) = multipleOf k H :=
  buildTable_holdsBelow old H k k.isLt

theorem buildTable_read (old : ProductTable) (H : FE) (n : Nibble) :
    (buildTable old H).read n = multipleOf (bitrev4 n) H := by
  rw [← buildTable_read_bitrev4 old, bitrev4_bitrev4]

/-- A table has no storage beyond what its reads return. -/
theorem ProductTable.ext_read {pt pt' : ProductTable} (h : ∀ i, pt.read i = pt'.read i) : pt = pt' := by
  refine Vector.ext fun j hj => ?_
  have hnat : (BitVec.ofNat 4 (j + 1)).toNat = j + 1 := by
    rw [BitVec.toNat_ofNat]
    omega
  have hne : BitVec.ofNat 4 (j + 1) ≠ 0 := by bv_omega
  simpa only [ProductTable.read, dif_neg hne, hnat, Nat.add_sub_cancel] using h (BitVec.ofNat 4 (j + 1))

/-- Settles O5: the loop keeps "the multiples below `n` are in place"; the old table is gone since every read is now a multiple of `H`. -/
theorem buildTableHoldsMultiples : Obligations.BuildTableHoldsMultiples := by
  unfold Obligations.BuildTableHoldsMultiples
  refine ⟨buildTable_read_bitrev4, fun old old' H => ProductTable.ext_read fun i => ?_, ProductTable.read_zero⟩
  rw [buildTable_read, buildTable_read]

end Sys2Proof.Machine

/-!
R86: field elements as polynomials over GF(2), and `mul` as their product modulo `x^128 + x^7 + x^2 + x + 1`.
-/

namespace Sys2Proof

open Machine Polynomial

/-! ### Bits as polynomials -/

/-- The polynomial of degree below `n` whose coefficient of `x^i` is `f i`. -/
noncomputable def bitPoly (n : Nat) (f : Nat → Bool) : (ZMod 2)[X] :=
  ∑ i ∈ Finset.range n, if f i = true then X ^ i else 0

theorem bitPoly_congr {n : Nat} {f g : Nat → Bool} (h : ∀ i < n, f i = g i) : bitPoly n f = bitPoly n g := by
  refine Finset.sum_congr rfl fun i hi => ?_
  rw [h i (Finset.mem_range.1 hi)]

@[simp] theorem bitPoly_false (n : Nat) : bitPoly n (fun _ => false) = 0 := by simp [bitPoly]

theorem bitPoly_xor (n : Nat) (f g : Nat → Bool) : bitPoly n (fun i => f i ^^ g i) = bitPoly n f + bitPoly n g := by
  rw [bitPoly, bitPoly, bitPoly, ← Finset.sum_add_distrib]
  refine Finset.sum_congr rfl fun i _ => ?_
  cases f i <;> cases g i <;> simp [CharTwo.add_self_eq_zero]

/-- The lower `m` coefficients, and the upper `n` moved up by `x^m`. -/
theorem bitPoly_add (m n : Nat) (f : Nat → Bool) :
    bitPoly (m + n) f = bitPoly m f + X ^ m * bitPoly n (fun i => f (m + i)) := by
  rw [bitPoly, Finset.sum_range_add, bitPoly, bitPoly, Finset.mul_sum]
  simp only [mul_ite, mul_zero, pow_add]

/-! ### Field elements as polynomials -/

/-- R12: a field element as a polynomial over GF(2). -/
noncomputable def FE.poly (x : FE) : (ZMod 2)[X] := bitPoly 128 x.coeff

/-- R86: the polynomial of the field. -/
noncomputable def fieldModulus : (ZMod 2)[X] := X ^ 128 + X ^ 7 + X ^ 2 + X + 1

/-- The residue class of a field element modulo the polynomial of the field. -/
noncomputable def FE.residue (x : FE) : AdjoinRoot fieldModulus := AdjoinRoot.mk fieldModulus x.poly

@[simp] theorem FE.poly_zero : FE.zero.poly = 0 := by
  rw [FE.poly, bitPoly_congr fun i _ => FE.coeff_zero i, bitPoly_false]

theorem FE.poly_add (x y : FE) : (add x y).poly = x.poly + y.poly := by
  rw [FE.poly, bitPoly_congr fun i _ => FE.coeff_add x y i, bitPoly_xor, FE.poly, FE.poly]

/-- The coefficients that replace `x^128`. -/
theorem bitPoly_reduction (c : Bool) : bitPoly 128 (fun i => c && decide (i = 0 ∨ i = 1 ∨ i = 2 ∨ i = 7)) =
    if c = true then X ^ 7 + X ^ 2 + X + 1 else 0 := by
  rw [bitPoly_add 8 120, bitPoly_congr (n := 120) (g := fun _ => false) (fun i _ => by simp; omega), bitPoly_false]
  cases c
  · simp [bitPoly]
  · simp [bitPoly, Finset.sum_range_succ]
    ring

/-- R82 on polynomials: `double` multiplies by `x` and subtracts the polynomial of the field if `x^128` comes up. -/
theorem FE.X_mul_poly (x : FE) : X * x.poly = (double x).poly + if x.coeff 127 = true then fieldModulus else 0 := by
  have hshift : bitPoly 128 (fun i => decide (0 < i) && x.coeff (i - 1)) = X * bitPoly 127 x.coeff := by
    rw [bitPoly_add 1 127]
    simp [bitPoly]
  have htop : x.poly = bitPoly 127 x.coeff + if x.coeff 127 = true then X ^ 127 else 0 := Finset.sum_range_succ ..
  have hdouble : (double x).poly = X * bitPoly 127 x.coeff + if x.coeff 127 = true then X ^ 7 + X ^ 2 + X + 1 else 0 := by
    rw [FE.poly, bitPoly_congr fun i hi => FE.coeff_double x hi, bitPoly_xor, hshift, bitPoly_reduction]
  rw [htop, hdouble]
  split_ifs
  · unfold fieldModulus
    linear_combination -(X ^ 7 + X ^ 2 + X + 1 : (ZMod 2)[X]) * CharTwo.two_eq_zero (R := (ZMod 2)[X])
  · simp

/-! ### Residues -/

@[simp] theorem FE.residue_zero : FE.zero.residue = 0 := by rw [FE.residue, FE.poly_zero, map_zero]

@[simp] theorem FE.residue_add (x y : FE) : (add x y).residue = x.residue + y.residue := by
  rw [FE.residue, FE.poly_add, map_add, FE.residue, FE.residue]

@[simp] theorem FE.residue_double (x : FE) : (double x).residue = AdjoinRoot.root fieldModulus * x.residue := by
  rw [FE.residue, FE.residue, ← AdjoinRoot.mk_X, ← map_mul, FE.X_mul_poly, map_add]
  split <;> simp

/-- R86: `k·H` is `k3·x^3 + k2·x^2 + k1·x + k0` times `H`. -/
theorem residue_multipleOf (k : Nibble) (H : FE) :
    (multipleOf k H).residue = AdjoinRoot.mk fieldModulus (bitPoly 4 k.getLsbD) * H.residue := by
  simp only [multipleOf, bitPoly, Finset.sum_range_succ, Finset.sum_range_zero, FE.residue_add, map_add,
    apply_ite FE.residue, apply_ite (AdjoinRoot.mk fieldModulus), FE.residue_double, FE.residue_zero]
  split_ifs <;> simp <;> ring

/-! ### The steps of `mul` -/

/-- The shift of one step of `mul` (R83, steps 1 to 3), before the multiple of `H` is added. -/
def shiftNibble (z : FE) : FE :=
  ⟨(z.low >>> 4) ^^^ ((readRT (z.high.extractLsb' 0 4)).setWidth 64 <<< 48), (z.high >>> 4) ||| (z.low <<< 60)⟩

theorem mulStep_eq_add (pt : ProductTable) (z : FE) (n : Nibble) : mulStep pt z n = add (shiftNibble z) (pt.read n) := rfl

/-- R84: what each of the four coefficients pushed out, `x^127` to `x^124`, adds to the coefficient of `x^i`. -/
theorem getLsbD_readRT (n : Nibble) {i : Nat} (hi : i < 16) : (readRT n).getLsbD (15 - i) =
    ((n.getLsbD 0 && decide (i = 3 ∨ i = 4 ∨ i = 5 ∨ i = 10)) ^^ (n.getLsbD 1 && decide (i = 2 ∨ i = 3 ∨ i = 4 ∨ i = 9)) ^^
      (n.getLsbD 2 && decide (i = 1 ∨ i = 2 ∨ i = 3 ∨ i = 8)) ^^ (n.getLsbD 3 && decide (i = 0 ∨ i = 1 ∨ i = 2 ∨ i = 7))) := by
  decide +revert

/-- The bits of the index into `RT` are the coefficients pushed out (R84). -/
theorem getLsbD_extract_high (z : FE) {j : Nat} (hj : j < 4) : (z.high.extractLsb' 0 4).getLsbD j = z.coeff (127 - j) := by
  simp [FE.coeff, hj, show ¬ 127 - j < 64 by omega, show 127 - (127 - j) = j by omega]

theorem append_shiftNibble (z : FE) : (shiftNibble z).low ++ (shiftNibble z).high = ((z.low ++ z.high) >>> 4) ^^^
    (((readRT (z.high.extractLsb' 0 4)).setWidth 64 <<< 48) ++ (0 : Word)) := by
  rw [← append_ushiftRight _ _ (by omega), BitVec.xor_append]
  simp [shiftNibble]

/-- An entry of `RT` sits at the top of `low`: its bits are the coefficients of `x^0` to `x^15` (R84). -/
theorem getLsbD_append_reduction (r : BitVec 16) {i : Nat} (hi : i < 128) :
    ((r.setWidth 64 <<< 48) ++ (0 : Word)).getLsbD (127 - i) = (decide (i < 16) && r.getLsbD (15 - i)) := by
  rw [BitVec.getLsbD_append, BitVec.getLsbD_shiftLeft, BitVec.getLsbD_setWidth]
  by_cases h : i < 16
  · simp [h, show ¬ 127 - i < 64 by omega, show 127 - i - 64 < 64 by omega, show ¬ 127 - i - 64 < 48 by omega,
      show 127 - i - 64 - 48 = 15 - i by omega, show 15 - i < 64 by omega]
  · simp [h, show 127 - i - 64 < 48 by omega]

theorem coeff_shiftNibble (z : FE) {i : Nat} (hi : i < 128) : (shiftNibble z).coeff i =
    ((decide (4 ≤ i) && z.coeff (i - 4)) ^^ (decide (i < 16) && (readRT (z.high.extractLsb' 0 4)).getLsbD (15 - i))) := by
  rw [FE.coeff_eq_getLsbD _ hi, append_shiftNibble, BitVec.getLsbD_xor, z.getLsbD_append_ushiftRight 4 hi,
    getLsbD_append_reduction _ hi]

theorem FE.coeff_double_of_lt (x : FE) {i : Nat} (h : 7 < i) (hi : i < 128) : (double x).coeff i = x.coeff (i - 1) := by
  rw [FE.coeff_double x hi]
  simp [show 0 < i by omega, show ¬ (i = 0 ∨ i = 1 ∨ i = 2 ∨ i = 7) by omega]

/-- R83, R84: shifting by a nibble and folding through `RT` is four doublings. -/
theorem shiftNibble_eq_double (z : FE) : shiftNibble z = double (double (double (double z))) := by
  refine FE.ext_coeff fun i hi => ?_
  rw [coeff_shiftNibble z hi]
  obtain h | h : i < 16 ∨ 16 ≤ i := by omega
  · rw [getLsbD_readRT _ h, getLsbD_extract_high z (j := 0) (by omega), getLsbD_extract_high z (j := 1) (by omega),
      getLsbD_extract_high z (j := 2) (by omega), getLsbD_extract_high z (j := 3) (by omega)]
    interval_cases i <;> simp [FE.coeff_double]
  · iterate 4 rw [FE.coeff_double_of_lt _ (by omega) (by omega)]
    simp [show 4 ≤ i by omega, show ¬ i < 16 by omega, Nat.sub_sub]

/-- One step of `mul`: `z` times `x^4`, plus the multiple of `H` that the bit-reversed nibble selects (R86). -/
theorem residue_mulStep {pt : ProductTable} {H : FE} (hpt : ∀ n, pt.read n = multipleOf (bitrev4 n) H) (z : FE) (n : Nibble) :
    (mulStep pt z n).residue = AdjoinRoot.root fieldModulus ^ 4 * z.residue +
      AdjoinRoot.mk fieldModulus (bitPoly 4 fun j => n.getLsbD (3 - j)) * H.residue := by
  rw [mulStep_eq_add, shiftNibble_eq_double, hpt, FE.residue_add, residue_multipleOf,
    bitPoly_congr fun j hj => getLsbD_bitrev4 n hj]
  simp only [FE.residue_double]
  ring

/-! ### The loop of `mul` -/

/-- The polynomial of the low `n` bits of a word, its bit `n - 1` the coefficient of `x^0` (R12). -/
noncomputable def wordPoly (n : Nat) (w : Word) : (ZMod 2)[X] := bitPoly n fun i => w.getLsbD (n - 1 - i)

/-- The nibble consumed first holds the highest four degrees. -/
theorem wordPoly_succ_nibble (k : Nat) (w : Word) : wordPoly (4 * (k + 1)) w =
    wordPoly (4 * k) (w >>> 4) + X ^ (4 * k) * bitPoly 4 (fun j => (w.extractLsb' 0 4).getLsbD (3 - j)) := by
  have hrest : bitPoly (4 * k) (fun i => w.getLsbD (4 * k + 4 - 1 - i)) = wordPoly (4 * k) (w >>> 4) := by
    refine bitPoly_congr fun i hi => ?_
    rw [BitVec.getLsbD_ushiftRight, show 4 + (4 * k - 1 - i) = 4 * k + 4 - 1 - i by omega]
  have hnibble : bitPoly 4 (fun j => w.getLsbD (4 * k + 4 - 1 - (4 * k + j))) =
      bitPoly 4 (fun j => (w.extractLsb' 0 4).getLsbD (3 - j)) := by
    refine bitPoly_congr fun j hj => ?_
    simp [show 3 - j < 4 by omega, show 4 * k + 3 - (4 * k + j) = 3 - j by omega]
  rw [wordPoly, Nat.mul_succ, bitPoly_add, hrest, hnibble]

theorem FE.poly_eq_wordPoly (x : FE) : x.poly = wordPoly 64 x.low + X ^ 64 * wordPoly 64 x.high := by
  have hlow : bitPoly 64 x.coeff = wordPoly 64 x.low := bitPoly_congr fun i hi => if_pos hi
  have hhigh : bitPoly 64 (fun i => x.coeff (64 + i)) = wordPoly 64 x.high := by
    refine bitPoly_congr fun i hi => ?_
    rw [FE.coeff, if_neg (by omega), show 127 - (64 + i) = 64 - 1 - i by omega]
  rw [FE.poly, bitPoly_add 64 64, hlow, hhigh]

theorem residue_mulWord {pt : ProductTable} {H : FE} (hpt : ∀ n, pt.read n = multipleOf (bitrev4 n) H) (k : Nat) (w : Word)
    (z : FE) : (mulWord pt k w z).residue = AdjoinRoot.root fieldModulus ^ (4 * k) * z.residue +
      AdjoinRoot.mk fieldModulus (wordPoly (4 * k) w) * H.residue := by
  induction k generalizing w z with
  | zero => simp [mulWord, wordPoly, bitPoly]
  | succ k ih =>
    rw [mulWord, ih, residue_mulStep hpt, wordPoly_succ_nibble]
    simp only [map_add, map_mul, map_pow, AdjoinRoot.mk_X]
    ring

/-- R86: in the field, `mul(y)` is `y · H`. -/
theorem residue_mul {pt : ProductTable} {H : FE} (hpt : ∀ n, pt.read n = multipleOf (bitrev4 n) H) (y : FE) :
    (mul pt y).residue = y.residue * H.residue := by
  rw [mul, residue_mulWord hpt, residue_mulWord hpt, FE.residue_zero, FE.residue.eq_def y, FE.poly_eq_wordPoly]
  simp only [map_add, map_mul, map_pow, AdjoinRoot.mk_X]
  ring

theorem fieldModulus_dvd_mul (old : ProductTable) (H y : FE) :
    fieldModulus ∣ (mul (buildTable old H) y).poly - y.poly * H.poly := by
  rw [← AdjoinRoot.mk_eq_mk, map_mul]
  exact residue_mul (buildTable_read old H) y

theorem fieldModulus_dvd_multipleOf (k : Nibble) (H : FE) :
    fieldModulus ∣ (multipleOf k H).poly - bitPoly 4 k.getLsbD * H.poly := by
  rw [← AdjoinRoot.mk_eq_mk, map_mul]
  exact residue_multipleOf k H

/-- Settles O7: equal residue classes are equal modulo the polynomial, for `mul` by its loop and for `k·H` by its four terms. -/
theorem mulIsPolynomialProduct : Obligations.MulIsPolynomialProduct := by
  unfold Obligations.MulIsPolynomialProduct
  intro poly modulus
  have hpoly : poly = FE.poly := rfl
  have hmodulus : modulus = fieldModulus := by
    unfold fieldModulus
    rfl
  rw [hpoly, hmodulus]
  exact ⟨fieldModulus_dvd_mul, fieldModulus_dvd_multipleOf⟩

end Sys2Proof

/-!
R100 to R102: `update` block by block, and `absorb` and `ghash_flush` as `update` on a stream that arrives in chunks.
-/

namespace Sys2Proof.Machine

/-! ### A block as sixteen bytes -/

/-- Sixteen bytes need no padding. -/
theorem pad16_eq_toArray {b : List Byte} (h : b.length = 16) : pad16 b = ⟨b.toArray, h⟩ := by
  refine Vector.ext fun i hi => ?_
  simp [pad16, h]

/-- Zero bytes written out after the data are those that `pad16` supplies. -/
theorem pad16_append_zeros (d : List Byte) (k : Nat) : pad16 (d ++ List.replicate k 0) = pad16 d := by
  refine Vector.ext fun i hi => ?_
  simp only [pad16, Vector.getElem_ofFn]
  obtain hd | hd := Nat.lt_or_ge i d.length
  · exact List.getD_append _ _ _ _ hd
  · rw [List.getD_append_right _ _ _ _ hd, List.getD_eq_default d _ hd,
      List.getD_eq_getElem?_getD, List.getElem?_replicate]
    split <;> rfl

/-! ### `update` by blocks -/

section

variable (pt : ProductTable) (y : FE)

@[simp] theorem update_nil : update pt y [] = y := rfl

theorem partialBlock_append_of_length_eq {b : List Byte} (h : b.length = 16) (rest : List Byte) :
    partialBlock (b ++ rest) = partialBlock rest := by
  rw [partialBlock, List.length_append, h, show 16 * ((16 + rest.length) / 16) = 16 + 16 * (rest.length / 16) by omega,
    ← List.drop_drop, List.drop_left' h, partialBlock]

/-- R100: a full block at the front. -/
theorem update_append_of_length_eq {b : List Byte} (h : b.length = 16) (rest : List Byte) :
    update pt y (b ++ rest) = update pt (absorbBlock pt y b) rest := by
  have hdiv : (b ++ rest).length / 16 = rest.length / 16 + 1 := by
    rw [List.length_append]
    omega
  have hmod : (b ++ rest).length % 16 = rest.length % 16 := by
    rw [List.length_append]
    omega
  simp only [update, hdiv, hmod, absorbBlocks, List.take_left' h, List.drop_left' h, partialBlock_append_of_length_eq h]

/-- R100: at most sixteen bytes are one block, padded if short. -/
theorem update_eq_absorbBlock {d : List Byte} (hpos : 0 < d.length) (hle : d.length ≤ 16) :
    update pt y d = absorbBlock pt y d := by
  obtain hlt | heq := Nat.lt_or_eq_of_le hle
  · simp [update, partialBlock, absorbBlocks, Nat.div_eq_of_lt hlt, Nat.mod_eq_of_lt hlt, List.ne_nil_of_length_pos hpos]
  · simpa using update_append_of_length_eq pt y heq []

/-- The blocks of the loop of R100 and R101 are those of `update` on the bytes they cover. -/
theorem absorbBlocks_eq_update {m : Nat} {d : List Byte} (h : 16 * m ≤ d.length) :
    absorbBlocks pt m y d = update pt y (d.take (16 * m)) := by
  induction m generalizing y d with
  | zero => simp [absorbBlocks]
  | succ m ih =>
    have hblock : (d.take 16).length = 16 := by
      rw [List.length_take]
      omega
    have hrest : 16 * m ≤ (d.drop 16).length := by
      rw [List.length_drop]
      omega
    rw [absorbBlocks, ih _ hrest, Nat.mul_succ, Nat.add_comm, List.take_add, update_append_of_length_eq pt y hblock]

/-- Data that ends on a block boundary may be absorbed on its own before what follows. -/
theorem update_append {m : Nat} {d : List Byte} (h : d.length = 16 * m) (e : List Byte) :
    update pt y (d ++ e) = update pt (update pt y d) e := by
  induction m generalizing y d with
  | zero =>
    obtain rfl := List.length_eq_zero_iff.1 h
    rfl
  | succ m ih =>
    have hblock : (d.take 16).length = 16 := by
      rw [List.length_take]
      omega
    have hrest : (d.drop 16).length = 16 * m := by
      rw [List.length_drop]
      omega
    rw [← List.take_append_drop 16 d, List.append_assoc, update_append_of_length_eq pt y hblock, ih _ hrest,
      update_append_of_length_eq pt y hblock]

end

/-! ### The stream -/

section

variable (s : State)

/-- R101: `GH` after `absorb`, by `update` on the completed blocks. -/
theorem State.absorb_gh_eq_update (d : List Byte) :
    (s.absorb d).gh = update s.pt s.gh ((s.gbuf ++ d).take (16 * ((s.gbuf ++ d).length / 16))) :=
  absorbBlocks_eq_update s.pt s.gh (Nat.mul_div_le _ _)

theorem State.absorb_gbuf_length_lt (d : List Byte) : (s.absorb d).gbuf.length < 16 := by
  rw [State.absorb_gbuf, partialBlock_length]
  exact Nat.mod_lt _ (by decide)

/-- What `absorb` has not yet taken into `GH` waits in `GBUF`: the accumulator of all the data is as before, whatever follows. -/
theorem State.update_absorb_append (d e : List Byte) :
    update s.pt (s.absorb d).gh ((s.absorb d).gbuf ++ e) = update s.pt s.gh (s.gbuf ++ d ++ e) := by
  have hlen : ((s.gbuf ++ d).take (16 * ((s.gbuf ++ d).length / 16))).length = 16 * ((s.gbuf ++ d).length / 16) :=
    List.length_take_of_le (Nat.mul_div_le _ _)
  rw [State.absorb_gh_eq_update, ← update_append s.pt s.gh hlen, State.absorb_gbuf, partialBlock, ← List.append_assoc,
    List.take_append_drop]

/-- R102: `ghash_flush()` is `update(GH, GBUF)`. -/
theorem State.ghashFlush_eq_update (h : s.gbuf.length < 16) : s.ghashFlush = update s.pt s.gh s.gbuf := by
  unfold State.ghashFlush
  split
  · next hnil => rw [hnil, update_nil]
  · next hne => exact (update_eq_absorbBlock s.pt s.gh (List.length_pos_of_ne_nil hne) h.le).symm

/-- The flushed accumulator depends on the stream alone, not on how it was cut into chunks. -/
theorem State.ghashFlush_foldl_absorb (h : s.gbuf.length < 16) (chunks : List (List Byte)) :
    (chunks.foldl State.absorb s).ghashFlush = update s.pt s.gh (s.gbuf ++ chunks.flatten) := by
  induction chunks generalizing s with
  | nil => simpa using s.ghashFlush_eq_update h
  | cons d chunks ih =>
    rw [List.foldl_cons, ih _ (s.absorb_gbuf_length_lt d), State.absorb_pt, s.update_absorb_append, List.flatten_cons,
      List.append_assoc]

end

/-! ### The statements -/

/-- Settles O10: `update` is its loop over full blocks and one padded block, and the padding is that of `pad16`. -/
theorem updateAbsorbsByBlocks : Obligations.UpdateAbsorbsByBlocks := by
  unfold Obligations.UpdateAbsorbsByBlocks
  refine fun pt y => ⟨update_nil pt y, fun b rest h => ?_, fun d hpos hlt => ?_⟩
  · rw [update_append_of_length_eq pt y h, absorbBlock, pad16_eq_toArray h]
  · have hlen : (d ++ List.replicate (16 - d.length) 0).length = 16 := by
      rw [List.length_append, List.length_replicate]
      omega
    rw [update_eq_absorbBlock pt y hpos hlt.le, update_eq_absorbBlock pt y (by omega) hlen.le, absorbBlock, absorbBlock,
      pad16_append_zeros]

/-- Settles O11: the loop of `absorb` is `update` on the bytes of its full blocks, and what is left is the remainder modulo 16. -/
theorem absorbTakesWholeBlocks : Obligations.AbsorbTakesWholeBlocks := by
  unfold Obligations.AbsorbTakesWholeBlocks
  intro s d buf m
  refine ⟨?_, List.length_drop, s.absorb_gbuf_length_lt d⟩
  rw [← s.absorb_gh_eq_update d]
  rfl

/-- Settles O12: by induction over the chunks, each `absorb` keeping the accumulator of `GBUF` with all that is to come. -/
theorem flushPadsTheWholeStream : Obligations.FlushPadsTheWholeStream := by
  unfold Obligations.FlushPadsTheWholeStream
  refine ⟨fun s h => s.ghashFlush_eq_update h, fun s A chunks hgh hgbuf => ?_⟩
  have hlen : s.gbuf.length < 16 := by simp [hgbuf]
  rw [s.ghashFlush_foldl_absorb hlen, hgh, hgbuf, List.nil_append]

end Sys2Proof.Machine

/-!
R12, R86: a field element is determined by its residue class, so `mul` with the table of the field's one is the identity.
-/

namespace Sys2Proof

open Machine Polynomial

/-! ### A field element is its residue class -/

theorem coeff_bitPoly {n : Nat} (f : Nat → Bool) {i : Nat} (hi : i < n) :
    (bitPoly n f).coeff i = if f i = true then 1 else 0 := by
  have hterm : ∀ j, (if f j = true then (X ^ j : (ZMod 2)[X]) else 0).coeff i =
      if i = j then (if f j = true then 1 else 0) else 0 := by
    intro j
    cases f j <;> simp [coeff_X_pow]
  simp [bitPoly, hterm, hi]

theorem degree_bitPoly_lt (n : Nat) (f : Nat → Bool) : (bitPoly n f).degree < n := by
  refine mem_degreeLT.1 (Submodule.sum_mem _ fun i hi => mem_degreeLT.2 ?_)
  split
  · rw [degree_X_pow]
    exact_mod_cast Finset.mem_range.1 hi
  · simp

theorem degree_fieldModulus : fieldModulus.degree = (128 : Nat) := by
  unfold fieldModulus
  compute_degree!

theorem FE.degree_poly_lt_fieldModulus (x : FE) : x.poly.degree < fieldModulus.degree := by
  rw [degree_fieldModulus]
  exact degree_bitPoly_lt 128 x.coeff

theorem FE.poly_injective : Function.Injective FE.poly := by
  intro x y h
  refine FE.ext_coeff fun i hi => ?_
  have hcoeff : x.poly.coeff i = y.poly.coeff i := by rw [h]
  rw [FE.poly, FE.poly, coeff_bitPoly _ hi, coeff_bitPoly _ hi] at hcoeff
  cases hx : x.coeff i <;> cases hy : y.coeff i <;> simp [hx, hy] at hcoeff ⊢

/-- Polynomials of smaller degree than the modulus are equal if their residue classes are. -/
theorem eq_of_mk_eq_of_degree_lt {m p q : (ZMod 2)[X]} (h : AdjoinRoot.mk m p = AdjoinRoot.mk m q)
    (hp : p.degree < m.degree) (hq : q.degree < m.degree) : p = q := by
  have hdeg : (p - q).degree < m.degree := (degree_sub_le p q).trans_lt (max_lt hp hq)
  exact sub_eq_zero.1 (eq_zero_of_dvd_of_degree_lt (AdjoinRoot.mk_eq_mk.1 h) hdeg)

theorem FE.residue_injective : Function.Injective FE.residue := fun x y h =>
  FE.poly_injective (eq_of_mk_eq_of_degree_lt h x.degree_poly_lt_fieldModulus y.degree_poly_lt_fieldModulus)

/-! ### The field's one -/

/-- R12: the field's one has the coefficient of `x^0` alone. -/
theorem FE.coeff_one {i : Nat} (hi : i < 128) : FE.one.coeff i = decide (i = 0) := by
  have hlow : FE.one.low = BitVec.twoPow 64 63 := by decide
  unfold FE.coeff
  split
  · rw [hlow, BitVec.getLsbD_twoPow]
    simp
    omega
  · simp [FE.one]
    omega

@[simp] theorem FE.residue_one : FE.one.residue = 1 := by
  have hpoly : FE.one.poly = 1 := by
    rw [FE.poly, bitPoly_congr fun i hi => FE.coeff_one hi]
    simp [bitPoly]
  rw [FE.residue, hpoly, map_one]

/-- R86: the field's one is neutral for `mul`. -/
@[simp] theorem mul_buildTable_one (old : ProductTable) (y : FE) : mul (buildTable old FE.one) y = y := by
  refine FE.residue_injective ?_
  rw [residue_mul (buildTable_read old FE.one), FE.residue_one, mul_one]

end Sys2Proof

/-!
R110, R111: the counter block as twelve bytes and a big-endian tail, and `derive_counter` on the nonce block.
-/

namespace Sys2Proof.Machine

/-! ### The tail of a counter block -/

/-- `be32` by shifts: byte 0 is the most significant. -/
theorem be32_eq_or (s : Vector Byte 4) : be32 s =
    (s[0].setWidth 32 <<< 24 ||| s[1].setWidth 32 <<< 16 ||| s[2].setWidth 32 <<< 8 ||| s[3].setWidth 32) := by
  refine BitVec.eq_of_getLsbD_eq fun j hj => ?_
  simp only [be32, BitVec.getLsbD_append, BitVec.getLsbD_or, BitVec.getLsbD_shiftLeft, BitVec.getLsbD_setWidth]
  split_ifs <;> grind

@[simp] theorem be32_bytesBe32 (v : BitVec 32) : be32 (bytesBe32 v) = v := by
  simp only [be32, bytesBe32, Vector.getElem_ofFn, BitVec.extractLsb'_append_extractLsb'_eq_extractLsb']
  exact BitVec.extractLsb'_eq_self

theorem counterTail_append (head : Vector Byte 12) (tail : Vector Byte 4) : counterTail (head ++ tail) = be32 tail := by
  refine congrArg be32 (Vector.ext fun i hi => ?_)
  rw [Vector.getElem_ofFn, Vector.getElem_append_right (by omega) (by omega)]
  simp

/-- R110: the tail is incremented modulo `2^32`. -/
@[simp] theorem counterTail_inc32 (ctr : Block) : counterTail (inc32 ctr) = counterTail ctr + 1 := by
  rw [inc32, counterTail_append, be32_bytesBe32]

theorem getElem_counterHead (ctr : Block) {i : Nat} (hi : i < 12) : (counterHead ctr)[i] = ctr[i] := by
  simp [counterHead]

theorem getElem_inc32_of_lt (ctr : Block) {i : Nat} (hi : i < 12) : (inc32 ctr)[i] = ctr[i] := by
  rw [← getElem_counterHead _ hi, ← getElem_counterHead _ hi, counterHead_inc32]

theorem counterTail_eq_or (ctr : Block) : counterTail ctr =
    (ctr[12].setWidth 32 <<< 24 ||| ctr[13].setWidth 32 <<< 16 ||| ctr[14].setWidth 32 <<< 8 ||| ctr[15].setWidth 32) := by
  rw [counterTail, be32_eq_or]
  simp only [Vector.getElem_ofFn]

/-- Settles O13: `inc32` keeps the head, and `be32` reads back the four bytes it writes. -/
theorem incrementMovesTheTailOnly : Obligations.IncrementMovesTheTailOnly := by
  unfold Obligations.IncrementMovesTheTailOnly
  exact fun ctr => ⟨fun _ hi => getElem_inc32_of_lt ctr hi, counterTail_inc32 ctr, counterTail_eq_or ctr⟩

/-! ### Blocks as field elements -/

@[simp] theorem bytesBe64_be64 (s : Vector Byte 8) : bytesBe64 (be64 s) = s := by
  refine Vector.ext fun i hi => ?_
  rw [bytesBe64, be64, Vector.getElem_ofFn]
  interval_cases i <;>
    simp (disch := decide) only [BitVec.extractLsb'_append_eq_of_le, BitVec.extractLsb'_append_eq_of_add_le] <;>
    exact BitVec.extractLsb'_eq_self

/-- R11: `block_of_fe` undoes `fe_of_block`. -/
@[simp] theorem blockOfFe_feOfBlock (b : Block) : blockOfFe (feOfBlock b) = b := by
  rw [blockOfFe, feOfBlock, bytesBe64_be64, bytesBe64_be64]
  refine Vector.ext fun i hi => ?_
  rw [Vector.getElem_append]
  split
  · simp
  · simp [show 8 + (i - 8) = i by omega]

/-- R11, R81: `add` is the bytewise XOR of the blocks. -/
theorem blockOfFe_add (x y : FE) : blockOfFe (add x y) = xorBlock (blockOfFe x) (blockOfFe y) := by
  refine Vector.ext fun i hi => ?_
  rw [xorBlock, Vector.getElem_ofFn, blockOfFe, blockOfFe, blockOfFe, Vector.getElem_append, Vector.getElem_append,
    Vector.getElem_append]
  split <;> simp [add, bytesBe64, BitVec.extractLsb'_xor]

theorem xorBlock_set_zeroBlock (b : Block) (v : Byte) : xorBlock b (zeroBlock.set 15 v) = b.set 15 (b[15] ^^^ v) := by
  refine Vector.ext fun i hi => ?_
  simp only [xorBlock, zeroBlock, Vector.getElem_ofFn, Vector.getElem_set, Vector.getElem_replicate]
  split
  · next h =>
    subst h
    rfl
  · exact BitVec.xor_zero

/-- R111: on the wire, the bit length 128 of the nonce is `0x80` in the last byte. -/
theorem blockOfFe_xor_bitLength (y : FE) :
    blockOfFe ⟨y.low, y.high ^^^ 128⟩ = (blockOfFe y).set 15 ((blockOfFe y)[15] ^^^ 0x80) := by
  have hlength : blockOfFe ⟨0, 128⟩ = zeroBlock.set 15 0x80 := by decide
  have hadd : (⟨y.low, y.high ^^^ 128⟩ : FE) = add y ⟨0, 128⟩ := by simp [add]
  rw [hadd, blockOfFe_add, hlength, xorBlock_set_zeroBlock]

/-! ### `derive_counter` -/

@[simp] theorem pad16_toList (b : Block) : pad16 b.toList = b := pad16_eq_toArray b.length_toList

/-- R100: `update` on one whole block. -/
theorem update_toList (pt : ProductTable) (y : FE) (b : Block) :
    update pt y b.toList = mul pt (add y (feOfBlock b)) := by
  rw [update_eq_absorbBlock pt y (by simp) (by simp), absorbBlock, pad16_toList]

/-- R111: GHASH of the nonce block from a fresh accumulator is one `mul`. -/
theorem deriveCounter_eq (pt : ProductTable) (nonce : Block) : deriveCounter pt nonce =
    blockOfFe (mul pt ⟨(mul pt (feOfBlock nonce)).low, (mul pt (feOfBlock nonce)).high ^^^ 128⟩) := by
  rw [deriveCounter, update_toList, FE.zero_add]

theorem deriveCounter_buildTable_one (old : ProductTable) (nonce : Block) :
    deriveCounter (buildTable old FE.one) nonce = nonce.set 15 (nonce[15] ^^^ 0x80) := by
  simp only [deriveCounter_eq, mul_buildTable_one, blockOfFe_xor_bitLength, blockOfFe_feOfBlock]

/-- Settles O15: the nonce is one block of GHASH; with H the field's one both products are the identity, and only the bit length is left. -/
theorem deriveCounterFormula : Obligations.DeriveCounterFormula := by
  unfold Obligations.DeriveCounterFormula
  exact ⟨deriveCounter_eq, deriveCounter_buildTable_one⟩

end Sys2Proof.Machine

/-!
R133, R143, R144: the role is the only thing in which the two constructions differ; the tag of a session in closed form; what `VERIFY` answers.
-/

namespace Sys2Proof.Machine

/-! ### The two constructions -/

/-- R133: `INIT(role)` uses the role for `MODE` alone. -/
theorem initSession_eq_with_mode (role role' : Mode) (aAddr bAddr bLen : Word) (s : State) :
    initSession role' aAddr bAddr bLen s = { initSession role aAddr bAddr bLen s with mode := role' } := by
  simp only [initSession, State.setMode, State.respond]

/-- Settles O42: both commands pass the same checks, and the bodies are `INIT(role)` for the two roles. -/
theorem initDecDiffersInRoleOnly : Obligations.InitDecDiffersInRoleOnly := by
  unfold Obligations.InitDecDiffersInRoleOnly
  intro s aAddr bAddr bLen hmode hready
  have hallowed : allowsInit s.mode = true := decide_eq_true hmode
  have henc : exec (.initEnc aAddr 16 bAddr bLen) s = .next (initSession .enc aAddr bAddr bLen s) :=
    exec_of_ready hmode hallowed rfl hready
  have hdec : exec (.initDec aAddr 16 bAddr bLen) s = .next (initSession .dec aAddr bAddr bLen s) :=
    exec_of_ready hmode hallowed rfl hready
  exact ⟨_, henc, by rw [hdec, initSession_eq_with_mode .enc .dec]⟩

/-! ### The tag of a session -/

/-- R29, R102: `GH` has the full blocks of the data and `GBUF` the rest, so the flush is the GHASH of the AAD and all the data. -/
theorem SessionOf.ghashFlush_eq_sessionHash {s : State} {nonce : Block} {aad data : List Byte} (h : SessionOf s nonce aad data) :
    s.ghashFlush = sessionHash s.E aad data := by
  have hshort : s.gbuf.length < 16 := by
    rw [h.gbuf, ← partialBlock, partialBlock_length]
    exact Nat.mod_lt _ (by decide)
  have hfull : (data.take (16 * (data.length / 16))).length = 16 * (data.length / 16) :=
    List.length_take_of_le (Nat.mul_div_le _ _)
  rw [s.ghashFlush_eq_update hshort, h.ghash, h.gbuf, ← update_append _ _ hfull, List.take_append_drop, h.table, sessionHash]

/-- R143: `TagValue()` in closed form. -/
theorem SessionOf.tagValue_eq_sessionTag {s : State} {nonce : Block} {aad data : List Byte} (h : SessionOf s nonce aad data) :
    s.tagValue = sessionTag s.E nonce aad data := by
  simp only [State.tagValue, sessionTag, h.ghashFlush_eq_sessionHash, h.table, h.aadlen, h.datalen, h.tmask]

/-- Settles O54: every register that `TagValue()` reads is given by `E` and the session's inputs; the closed form mentions nothing else. -/
theorem sessionTagIsDetermined : Obligations.SessionTagIsDetermined := by
  unfold Obligations.SessionTagIsDetermined
  refine ⟨fun s nonce aad data h => h.tagValue_eq_sessionTag, fun s s' nonce aad data h h' hE => ?_⟩
  rw [h.tagValue_eq_sessionTag, h'.tagValue_eq_sessionTag, hE]

/-! ### Verification -/

/-- R138: with a candidate of the right length, a ready `VERIFY` compares it. -/
theorem exec_verify_of_ready {s : State} {aAddr bAddr bLen : Word} (hmode : s.mode = .dec)
    (hready : HostReady (.verify aAddr 16 bAddr bLen) s) :
    exec (.verify aAddr 16 bAddr bLen) s = .next (compareTag aAddr s) :=
  exec_of_ready (by simp [hmode]) (decide_eq_true hmode) rfl hready

/-- R144: the comparison answers `OK` for the sixteen bytes of `TagValue()`, else `AUTH_FAILURE`. -/
theorem compareTag_resp_of_candidate {s : State} {aAddr : Word} {c : Block} (hc : s.memRead aAddr 16 = c.toList) :
    (compareTag aAddr s).resp = some (if c = s.tagValue then codeOk else codeAuthFailure) := by
  rw [compareTag_resp, Config.tagLen, hc]
  simp only [Vector.toList_inj]

/-- Flipping one bit of one byte gives another block. -/
theorem set_flipBit_ne (b : Block) {i bit : Nat} (hi : i < 16) (hbit : bit < 8) :
    b.set i (b[i] ^^^ ((1 : Byte) <<< bit)) ≠ b := by
  intro heq
  have hmask : (1 : Byte) <<< bit = 0 := by simpa using congrArg (fun v : Block => v[i]) heq
  interval_cases bit <;> exact absurd hmask (by decide)

/-- Settles O56: the answer is `OK` or `AUTH_FAILURE` as the candidate is `TagValue()` or not, and a flipped bit makes it another block. -/
theorem verifyIsSound : Obligations.VerifyIsSound := by
  unfold Obligations.VerifyIsSound
  intro s aAddr bAddr bLen c hmode hready hc
  have hresp := compareTag_resp_of_candidate hc
  refine ⟨_, exec_verify_of_ready hmode hready, ⟨fun hok => ?_, fun heq => ?_⟩, fun i bit hi hbit hflip => ?_⟩
  · by_contra hne
    rw [hresp, if_neg hne] at hok
    exact absurd hok (by decide)
  · rw [hresp, if_pos heq, codeOk]
  · have hne : c ≠ s.tagValue := hflip ▸ set_flipBit_ne s.tagValue hi hbit
    rw [hresp, if_neg hne, codeAuthFailure]

end Sys2Proof.Machine

/-!
R131, R160 to R168: what a command answers when one of its checks stops it, one rule per check; the obligations are these rules at the codes of R67.
-/

namespace Sys2Proof.Machine

/-! ### A command stopped by a check -/

/-- R131 check 1. -/
theorem exec_of_faulted (i : Instr) {s : State} (hm : s.mode = .faulted) : exec i s = .next s.answerLatched := by
  simp [exec_eq_runCommand, runCommand, hm]

/-- R131 check 3. -/
theorem exec_of_disallowed_mode {i : Instr} {s : State} {m : Mode} (hm : s.mode = m) (hlive : m ≠ .faulted)
    (ha : allowedIn i m = false) : exec i s = .next (s.raiseFault codeRoleViolation) := by
  simp [exec_eq_runCommand, runCommand, hm, hlive, ha]

/-- R131 check 4, where it raises a fault. -/
theorem exec_of_operand_fault {i : Instr} {s : State} {code : Byte} (hm : s.mode ≠ .faulted)
    (ha : allowedIn i s.mode = true) (ho : operandCheck i = .fault code) : exec i s = .next (s.raiseFault code) := by
  simp [exec_eq_runCommand, runCommand, hm, ha, ho]

/-- R131 check 4, where it answers without a fault. -/
theorem exec_of_operand_answer {i : Instr} {s : State} {code : Byte} (hm : s.mode ≠ .faulted)
    (ha : allowedIn i s.mode = true) (ho : operandCheck i = .answer code) : exec i s = .next (s.respond code) := by
  simp [exec_eq_runCommand, runCommand, hm, ha, ho]

theorem checkNonceLength_of_ne {aLen : Word} (h : aLen ≠ 16) : checkNonceLength aLen = .fault codeInvalidNonceLength :=
  if_neg h

theorem checkTagLength_of_ne {aLen : Word} (h : aLen ≠ 16) : checkTagLength aLen = .answer codeAuthFailure :=
  if_neg h

/-- R163: a candidate that differs from `TagValue()` is answered and nothing else happens. -/
theorem compareTag_of_mismatch {s : State} {aAddr : Word} (h : s.memRead aAddr 16 ≠ s.tagValue.toList) :
    compareTag aAddr s = s.respond codeAuthFailure :=
  congrArg s.respond (if_neg h)

/-! ### The command port -/

theorem step_of_present {s : State} {d : Descriptor} {rest : List HostMove} (h : s.inbox = .present d :: rest) :
    step s = runDescriptor d { s with inbox := rest } := by
  simp [step, State.takeMove, h]

theorem illegalCommand_of_faulted {s : State} (hm : s.mode = .faulted) : illegalCommand s = s.answerLatched :=
  if_pos hm

theorem illegalCommand_of_not_faulted {s : State} (hm : s.mode ≠ .faulted) :
    illegalCommand s = s.raiseFault codeIllegalCommand :=
  if_neg hm

/-- R167: check 1 comes before decoding, so legal and illegal descriptors are answered alike. -/
theorem runDescriptor_of_faulted (d : Descriptor) {s : State} (hm : s.mode = .faulted) :
    runDescriptor d s = .next s.answerLatched := by
  unfold runDescriptor
  split
  · next i _ => exact exec_of_faulted i hm
  · rw [illegalCommand_of_faulted hm]

/-! ### Illegal descriptors -/

/-- R64: the opcodes that decode are 1 to 6. -/
theorem opcode_bounds_of_decodeOpcode_ok {op : Byte} {aAddr aLen bAddr bLen : Word} {i : Instr}
    (h : decodeOpcode op aAddr aLen bAddr bLen = .ok i) : 1 ≤ op.toNat ∧ op.toNat ≤ 6 := by
  unfold decodeOpcode at h
  split_ifs at h with h1 h2 h3 h4 h5 h6
  all_goals subst op; decide

/-- R60: with no reserved bit set, `W0` is the opcode. -/
theorem Descriptor.toNat_opcode_of_rsv0 {d : Descriptor} (h : d.rsv0 = 0) : d.opcode.toNat = d.w0.toNat := by
  have hrsv : d.w0.toNat / 2 ^ 8 = 0 := by
    have hhigh := congrArg BitVec.toNat h
    simp only [Descriptor.rsv0, BitVec.extractLsb'_toNat, Nat.shiftRight_eq_div_pow, BitVec.ofNat_eq_ofNat,
      BitVec.toNat_ofNat] at hhigh
    omega
  simp only [Descriptor.opcode, BitVec.extractLsb'_toNat, Nat.shiftRight_eq_div_pow]
  omega

theorem legalW0_of_decode_ok {d : Descriptor} {i : Instr} (h : decode d = .ok i) : legalW0 d.w0 = true := by
  unfold decode at h
  split_ifs at h with hrsv
  have hop := opcode_bounds_of_decodeOpcode_ok h
  rw [Descriptor.toNat_opcode_of_rsv0 (not_not.1 hrsv)] at hop
  exact decide_eq_true hop

/-- R65, R164: a `W0` outside the six legal values never reaches `exec`. -/
theorem runDescriptor_of_illegalW0 {d : Descriptor} (s : State) (h : legalW0 d.w0 = false) :
    runDescriptor d s = .next (illegalCommand s) := by
  unfold runDescriptor
  split
  · next i hi => rw [legalW0_of_decode_ok hi] at h; cases h
  · rfl

/-! ### Leaving `FAULTED` -/

/-- R167: every move but the two that assert reset leaves `MODE = FAULTED` and the latched `FCODE`. -/
theorem step_from_faulted {s t : State} (hm : s.mode = .faulted) (h : step s = .next t) :
    (∃ move rest, s.inbox = move :: rest ∧ move.assertsReset = true) ∨ (t.mode = .faulted ∧ t.fcode = s.fcode) := by
  obtain ⟨-, hs⟩ | ⟨d, rest, -, hs⟩ | ⟨addr, v, rest, -, hs⟩ | ⟨rest, hi, hs⟩ | ⟨d, rest, hi, hs⟩ | ⟨port, rest, -, hs⟩ |
    ⟨port, d, rest, -, hs⟩ := step_cases s <;> rw [hs] at h
  · cases h
    exact .inr ⟨hm, rfl⟩
  · rw [runDescriptor_of_faulted d (by exact hm)] at h
    cases h
    exact .inr ⟨hm, rfl⟩
  · cases h
    exact .inr ⟨hm, rfl⟩
  · exact .inl ⟨_, rest, hi, rfl⟩
  · exact .inl ⟨_, rest, hi, rfl⟩
  · obtain ⟨-, hc⟩ | ⟨-, -, hc⟩ := connectCipherMove_cases port { s with inbox := rest } <;> rw [hc] at h <;> cases h
    exact .inr ⟨hm, rfl⟩
  · obtain ⟨-, hr⟩ | ⟨-, -, -, hr⟩ := rekeyMove_cases port d { s with inbox := rest } <;> rw [hr] at h
    · rw [runDescriptor_of_faulted d (by exact hm)] at h
      cases h
      exact .inr ⟨hm, rfl⟩
    · cases h

/-- Settles O34: check 1 is the first on every path of a descriptor, and of the moves only a reset writes `MODE`. -/
theorem faultedIsSticky : Obligations.FaultedIsSticky := by
  unfold Obligations.FaultedIsSticky
  refine ⟨fun s d rest hm hi => ?_, fun i s hm => exec_of_faulted i hm, fun s t hm h => step_from_faulted hm h⟩
  rw [step_of_present hi]
  exact runDescriptor_of_faulted d hm

/-- Settles O27: such a descriptor does not decode, and outside `FAULTED` that raises `Fault(0x82)`. -/
theorem illegalDescriptorFaults : Obligations.IllegalDescriptorFaults := by
  unfold Obligations.IllegalDescriptorFaults
  intro s d rest hi hw hm
  rw [step_of_present hi, runDescriptor_of_illegalW0 _ hw]
  exact congrArg _ (illegalCommand_of_not_faulted hm)

/-- Settles O30: in each of these modes the mode check of the command fails. -/
theorem roleViolationFaults : Obligations.RoleViolationFaults := by
  unfold Obligations.RoleViolationFaults
  intro s aAddr aLen bAddr bLen
  refine ⟨?encrypt, ?decrypt, ?tag, ?verify⟩
  case tag => exact fun hm => exec_of_disallowed_mode hm (by decide) rfl
  all_goals
    rintro (hm | hm) <;> exact exec_of_disallowed_mode hm (by decide) rfl

/-- Settles O31: the length check fails before any region is looked at. -/
theorem wrongNonceLengthFaults : Obligations.WrongNonceLengthFaults := by
  unfold Obligations.WrongNonceLengthFaults
  intro s aAddr aLen bAddr bLen hm hlen
  have hallowed : allowsInit s.mode = true := decide_eq_true hm
  exact ⟨exec_of_operand_fault hm hallowed (checkNonceLength_of_ne hlen),
    exec_of_operand_fault hm hallowed (checkNonceLength_of_ne hlen)⟩

/-- Settles O33: a wrong length is answered by the operand check, a mismatch by the comparison; neither writes anything but the response. -/
theorem authFailureDisturbsNothing : Obligations.AuthFailureDisturbsNothing := by
  unfold Obligations.AuthFailureDisturbsNothing
  intro s aAddr aLen bAddr bLen hm
  refine ⟨fun hlen => ?_, ?_⟩
  · exact exec_of_operand_answer (by simp [hm]) (decide_eq_true hm) (checkTagLength_of_ne hlen)
  · rintro rfl hready hne
    rw [exec_verify_of_ready hm hready, compareTag_of_mismatch hne]
    rfl

end Sys2Proof.Machine

/-!
R60 to R65: decoding undoes encoding and encoding undoes decoding, so a descriptor is legal exactly when some command encodes to it.
-/

namespace Sys2Proof

open Machine

/-- R60: with no reserved bit set, `W0` is the opcode and zeros above it. -/
theorem Descriptor.w0_eq_setWidth_opcode {d : Descriptor} (h : d.rsv0 = 0) : d.w0 = d.opcode.setWidth 64 := by
  refine BitVec.eq_of_toNat_eq ?_
  rw [BitVec.toNat_setWidth, Descriptor.toNat_opcode_of_rsv0 h, Nat.mod_eq_of_lt d.w0.isLt]

/-- R64, row by row: a command the opcode map answers encodes to that opcode and those operand words. -/
theorem encode_of_decodeOpcode_ok {op : Byte} {aAddr aLen bAddr bLen : Word} {i : Instr}
    (h : decodeOpcode op aAddr aLen bAddr bLen = .ok i) : encode i = ⟨op.setWidth 64, aAddr, aLen, bAddr, bLen⟩ := by
  unfold decodeOpcode at h
  split_ifs at h with h1 h2 h3 h4 h5 h6
  all_goals
    cases h
    subst op
    rfl

theorem encode_of_decode_ok {d : Descriptor} {i : Instr} (h : decode d = .ok i) : encode i = d := by
  unfold decode at h
  split_ifs at h with hrsv
  rw [encode_of_decodeOpcode_ok h, ← Descriptor.w0_eq_setWidth_opcode (not_not.1 hrsv)]

@[simp] theorem decode_encode (i : Instr) : decode (encode i) = .ok i := by
  cases i <;> simp [encode, decode, decodeOpcode, Descriptor.rsv0, Descriptor.opcode]

theorem decode_eq_ok_iff {d : Descriptor} {i : Instr} : decode d = .ok i ↔ encode i = d :=
  ⟨encode_of_decode_ok, fun h => h ▸ decode_encode i⟩

/-- Settles O23: the opcode map is read row by row in one direction, and each constructor's descriptor in the other. -/
theorem decodeEncodeAgree : Obligations.DecodeEncodeAgree := by
  unfold Obligations.DecodeEncodeAgree
  exact fun d i => decode_eq_ok_iff

/-! ### The six legal values of `W0` -/

theorem legalW0_iff (w : Word) : legalW0 w = true ↔ 1 ≤ w.toNat ∧ w.toNat ≤ 6 := decide_eq_true_iff

/-- R64: each legal `W0` is that of one command. -/
theorem exists_encode_of_legalW0 {d : Descriptor} (h : legalW0 d.w0 = true) : ∃ i, encode i = d := by
  obtain ⟨w0, w1, w2, w3, w4⟩ := d
  rw [legalW0_iff] at h
  obtain rfl | rfl | rfl | rfl | rfl | rfl : w0 = 1 ∨ w0 = 2 ∨ w0 = 3 ∨ w0 = 4 ∨ w0 = 5 ∨ w0 = 6 := by bv_omega
  · exact ⟨.initEnc w1 w2 w3 w4, rfl⟩
  · exact ⟨.initDec w1 w2 w3 w4, rfl⟩
  · exact ⟨.encrypt w1 w2 w3 w4, rfl⟩
  · exact ⟨.decrypt w1 w2 w3 w4, rfl⟩
  · exact ⟨.tag w1 w2 w3 w4, rfl⟩
  · exact ⟨.verify w1 w2 w3 w4, rfl⟩

theorem exists_decode_ok_iff (d : Descriptor) : (∃ i, decode d = .ok i) ↔ legalW0 d.w0 = true := by
  refine ⟨fun ⟨i, hi⟩ => legalW0_of_decode_ok hi, fun h => ?_⟩
  obtain ⟨i, hi⟩ := exists_encode_of_legalW0 h
  exact ⟨i, decode_eq_ok_iff.2 hi⟩

theorem exists_decode_error_iff (d : Descriptor) : (∃ e, decode d = .error e) ↔ legalW0 d.w0 = false := by
  rw [← Bool.not_eq_true, ← exists_decode_ok_iff]
  cases decode d <;> simp

/-- R65 on the fields of `W0`: the opcode is one of six and no reserved bit is set. -/
theorem legalW0_eq_false_iff (d : Descriptor) :
    legalW0 d.w0 = false ↔ d.opcode = 0x00 ∨ 0x07 ≤ d.opcode.toNat ∨ d.rsv0 ≠ 0 := by
  rw [← Bool.not_eq_true, legalW0_iff]
  by_cases hrsv : d.rsv0 = 0
  · rw [← Descriptor.toNat_opcode_of_rsv0 hrsv]
    simp only [hrsv, ne_eq, not_true_eq_false, or_false]
    bv_omega
  · have hhigh : 256 ≤ d.w0.toNat := by
      by_contra hlow
      refine hrsv (BitVec.eq_of_toNat_eq ?_)
      rw [Descriptor.rsv0, BitVec.extractLsb'_toNat, Nat.shiftRight_eq_div_pow, Nat.div_eq_of_lt (by omega)]
      rfl
    simp only [hrsv, ne_eq, not_false_eq_true, or_true, iff_true]
    omega

/-- Settles O22: `decode` answers a command for exactly the legal values of `W0`, an error for all others. -/
theorem sixLegalDescriptors : Obligations.SixLegalDescriptors := by
  unfold Obligations.SixLegalDescriptors
  exact fun d => ⟨exists_decode_ok_iff d, (exists_decode_error_iff d).trans (legalW0_eq_false_iff d)⟩

/-- Settles O24: each word is the encoding of its command, or has a reserved bit or an unused opcode. -/
theorem decodeSampleWords : Obligations.DecodeSampleWords := by
  unfold Obligations.DecodeSampleWords
  decide

/-! ### A descriptor on the command port -/

theorem runDescriptor_of_decode_ok {d : Descriptor} {i : Instr} (h : decode d = .ok i) (s : State) :
    runDescriptor d s = exec i s := by
  simp only [runDescriptor, h]

/-- Settles O26: a presented descriptor is taken off the inbox, decoded and run. -/
theorem stepRunsDecodedCommand : Obligations.StepRunsDecodedCommand := by
  unfold Obligations.StepRunsDecodedCommand
  intro s d rest i hi hd
  rw [step_of_present hi, runDescriptor_of_decode_ok hd]

end Sys2Proof

/-!
R11, R12, R83, R84, R86: `mul` against the bit-serial product, and the coefficients of a block on the wire.
-/

namespace Sys2Proof

open Machine Polynomial

/-! ### The reduction table -/

/-- Settles O4: sixteen constants. -/
theorem reductionTableAudit : Obligations.ReductionTableAudit := by
  unfold Obligations.ReductionTableAudit
  decide

/-! ### The bit-serial product -/

/-- The shift-and-add product over the coefficients `i` to `i + n - 1` of `a`. -/
theorem residue_productFrom (a : FE) (i n : Nat) (b : FE) :
    (productFrom a i n b).residue = AdjoinRoot.mk fieldModulus (bitPoly n fun j => a.coeff (i + j)) * b.residue := by
  induction n generalizing i b with
  | zero => simp [productFrom, bitPoly]
  | succ n ih =>
    have hfirst : bitPoly 1 (fun j => a.coeff (i + j)) = if a.coeff i = true then 1 else 0 := by simp [bitPoly]
    have hrest : bitPoly n (fun j => a.coeff (i + (1 + j))) = bitPoly n fun j => a.coeff (i + 1 + j) :=
      bitPoly_congr fun j _ => by rw [Nat.add_assoc]
    rw [productFrom, FE.residue_add, ih, FE.residue_double, Nat.add_comm n 1, bitPoly_add, hfirst, hrest]
    simp only [map_add, map_mul, pow_one, AdjoinRoot.mk_X, apply_ite FE.residue, FE.residue_zero,
      apply_ite (AdjoinRoot.mk fieldModulus), map_one, map_zero]
    split_ifs <;> ring

theorem residue_product (a b : FE) : (product a b).residue = a.residue * b.residue := by
  rw [product, residue_productFrom, bitPoly_congr fun j _ => by rw [Nat.zero_add]]
  rfl

/-- Settles O6: each equation holds of the residue classes, where `mul` is the multiplication by `H`. -/
theorem mulIsShiftAndAddProduct : Obligations.MulIsShiftAndAddProduct := by
  unfold Obligations.MulIsShiftAndAddProduct
  intro old H y z
  have hmul : ∀ x, (mul (buildTable old H) x).residue = x.residue * H.residue := residue_mul (buildTable_read old H)
  refine ⟨FE.residue_injective ?_, FE.residue_injective ?_, FE.residue_injective ?_, FE.residue_injective ?_⟩
  · rw [hmul, residue_product]
  · rw [hmul, FE.residue_add, FE.residue_add, hmul, hmul, add_mul]
  · rw [hmul, FE.residue_zero, zero_mul]
  · rw [hmul, FE.residue_one, one_mul]

/-! ### Blocks on the wire -/

@[simp] theorem be64_bytesBe64 (v : Word) : be64 (bytesBe64 v) = v := by
  simp only [be64, bytesBe64, Vector.getElem_ofFn, BitVec.extractLsb'_append_extractLsb'_eq_extractLsb']
  exact BitVec.extractLsb'_eq_self

theorem getElem_blockOfFe_low (x : FE) {i : Nat} (hi : i < 8) : (blockOfFe x)[i] = (bytesBe64 x.low)[i] :=
  Vector.getElem_append_left hi

theorem getElem_blockOfFe_high (x : FE) {i : Nat} (hi : i < 8) : (blockOfFe x)[8 + i] = (bytesBe64 x.high)[i] := by
  rw [blockOfFe, Vector.getElem_append_right (by omega) (by omega)]
  simp

/-- R11: `fe_of_block` undoes `block_of_fe`. -/
@[simp] theorem feOfBlock_blockOfFe (x : FE) : feOfBlock (blockOfFe x) = x := by
  have hlow : (Vector.ofFn fun i : Fin 8 => (blockOfFe x)[i.val]) = bytesBe64 x.low :=
    Vector.ext fun i hi => by rw [Vector.getElem_ofFn, getElem_blockOfFe_low x hi]
  have hhigh : (Vector.ofFn fun i : Fin 8 => (blockOfFe x)[8 + i.val]) = bytesBe64 x.high :=
    Vector.ext fun i hi => by rw [Vector.getElem_ofFn, getElem_blockOfFe_high x hi]
  rw [feOfBlock, hlow, hhigh, be64_bytesBe64, be64_bytesBe64]

/-- Byte `i` of a word on the wire, as a shift. -/
theorem getElem_bytesBe64 (v : Word) {i : Nat} (hi : i < 8) : (bytesBe64 v)[i] = (v >>> (56 - 8 * i)).setWidth 8 := by
  rw [bytesBe64, Vector.getElem_ofFn]
  refine BitVec.eq_of_getLsbD_eq fun j _ => ?_
  simp

theorem getElem_block_low (b : Block) {i : Nat} (hi : i < 8) :
    b[i]'(by omega) = ((feOfBlock b).low >>> (56 - 8 * i)).setWidth 8 := by
  rw [← getElem_bytesBe64 _ hi, ← getElem_blockOfFe_low _ hi]
  simp only [blockOfFe_feOfBlock]

theorem getElem_block_high (b : Block) {i : Nat} (hi : i < 8) :
    b[8 + i]'(by omega) = ((feOfBlock b).high >>> (56 - 8 * i)).setWidth 8 := by
  rw [← getElem_bytesBe64 _ hi, ← getElem_blockOfFe_high _ hi]
  simp only [blockOfFe_feOfBlock]

/-- Settles O8: the two conversions write and read the same bytes of the same words. -/
theorem blockConversionIsInverse : Obligations.BlockConversionIsInverse := by
  unfold Obligations.BlockConversionIsInverse
  exact ⟨feOfBlock_blockOfFe, blockOfFe_feOfBlock, fun b _ hi => ⟨getElem_block_low b hi, getElem_block_high b hi⟩⟩

/-- R12 on the wire. -/
theorem coeff_feOfBlock (b : Block) {i : Nat} (hi : i < 128) :
    (feOfBlock b).coeff i = (b[i / 8]'(by omega)).getLsbD (7 - i % 8) := by
  obtain h | h : i < 64 ∨ 64 ≤ i := by omega
  · rw [getElem_block_low b (by omega), FE.coeff, if_pos h, BitVec.getLsbD_setWidth, BitVec.getLsbD_ushiftRight,
      show 56 - 8 * (i / 8) + (7 - i % 8) = 63 - i by omega]
    simp
    omega
  · have hindex : i / 8 = 8 + (i - 64) / 8 := by omega
    simp only [hindex]
    rw [getElem_block_high b (by omega), FE.coeff, if_neg (by omega), BitVec.getLsbD_setWidth, BitVec.getLsbD_ushiftRight,
      show 56 - 8 * ((i - 64) / 8) + (7 - i % 8) = 127 - i by omega]
    simp
    omega

/-- Settles O9: byte `i / 8` of the block is a byte of `low` or `high`, and bit 7 of it has the lowest degree. -/
theorem coefficientsOnTheWire : Obligations.CoefficientsOnTheWire := by
  unfold Obligations.CoefficientsOnTheWire
  exact ⟨fun b _ hi => coeff_feOfBlock b hi, fun _ hi => FE.coeff_one hi⟩

end Sys2Proof

/-!
R110, R113 to R115: the period of the counter block, and `counter_crypt` one byte at a time, from which splitting the input, undoing the
output and the count of leftover keystream follow by induction over the input.
-/

namespace Sys2Proof.Machine

/-! ### The period of the counter block -/

theorem bytesBe32_be32 (s : Vector Byte 4) : bytesBe32 (be32 s) = s := by
  refine Vector.ext fun i hi => ?_
  rw [bytesBe32, be32, Vector.getElem_ofFn]
  interval_cases i <;>
    simp (disch := decide) only [BitVec.extractLsb'_append_eq_of_le, BitVec.extractLsb'_append_eq_of_add_le] <;>
    exact BitVec.extractLsb'_eq_self

/-- R17: a counter block is its head and its tail. -/
theorem counterHead_append_tail (c : Block) : counterHead c ++ bytesBe32 (counterTail c) = c := by
  refine Vector.ext fun i hi => ?_
  rw [counterTail, bytesBe32_be32, Vector.getElem_append]
  split
  · exact getElem_counterHead c _
  · simp [show 12 + (i - 12) = i by omega]

theorem counterHead_iterate_inc32 (k : Nat) (c : Block) : counterHead (inc32^[k] c) = counterHead c := by
  induction k with
  | zero => rfl
  | succ k ih => rw [Function.iterate_succ_apply', counterHead_inc32, ih]

theorem counterTail_iterate_inc32 (k : Nat) (c : Block) : counterTail (inc32^[k] c) = counterTail c + BitVec.ofNat 32 k := by
  induction k with
  | zero => simp
  | succ k ih =>
    rw [Function.iterate_succ_apply', counterTail_inc32, ih, BitVec.ofNat_add, BitVec.add_assoc]
    rfl

/-- Settles O14: the head never moves, and the tail is `k` further on modulo `2^32`. -/
theorem counterPeriod : Obligations.CounterPeriod := by
  unfold Obligations.CounterPeriod
  intro c k
  have htail : inc32^[k] c = c ↔ counterTail c + BitVec.ofNat 32 k = counterTail c := by
    rw [← counterTail_iterate_inc32]
    refine ⟨congrArg counterTail, fun h => ?_⟩
    rw [← counterHead_append_tail (inc32^[k] c), counterHead_iterate_inc32, h, counterHead_append_tail]
  rw [htail, Nat.dvd_iff_mod_eq_zero]
  bv_omega

/-! ### `counter_crypt` one byte at a time -/

/-- One output byte in front of what `counter_crypt` does with the rest of the input. -/
def Crypted.push (c : Byte) (r : Crypted) : Crypted := { r with out := c :: r.out }

/-- Output bytes in front of what `counter_crypt` does with the rest of the input. -/
def Crypted.after (out : List Byte) (r : Crypted) : Crypted := { r with out := out ++ r.out }

@[simp] theorem Crypted.push_out (c : Byte) (r : Crypted) : (r.push c).out = c :: r.out := rfl
@[simp] theorem Crypted.push_ctr (c : Byte) (r : Crypted) : (r.push c).ctr = r.ctr := rfl
@[simp] theorem Crypted.push_xm (c : Byte) (r : Crypted) : (r.push c).xm = r.xm := rfl
@[simp] theorem Crypted.after_nil (r : Crypted) : r.after [] = r := rfl
@[simp] theorem Crypted.after_cons (c : Byte) (out : List Byte) (r : Crypted) : r.after (c :: out) = (r.after out).push c := rfl
theorem Crypted.after_append (out out' : List Byte) (r : Crypted) : r.after (out ++ out') = (r.after out').after out := by
  simp [Crypted.after]

section

variable (E : Block → Block) (ctr : Block)

@[simp] theorem counterCrypt_nil (xm : List Byte) : counterCrypt E ctr xm [] = ⟨[], ctr, xm⟩ := by
  simp [counterCrypt, cryptBlocks]

/-- R113 step 1: leftover keystream is used first. -/
theorem counterCrypt_leftover (k : Byte) (xm : List Byte) (b : Byte) (inp : List Byte) :
    counterCrypt E ctr (k :: xm) (b :: inp) = (counterCrypt E ctr xm inp).push (k ^^^ b) := by
  simp [counterCrypt, Crypted.push, Nat.succ_min_succ, xorBytes]

/-- R113 step 2: with none left, a nonempty input is met with a fresh block of keystream, which is then the leftover. -/
theorem counterCrypt_refill {inp : List Byte} (h : inp ≠ []) :
    counterCrypt E ctr [] inp = counterCrypt E (inc32 ctr) (E ctr).toList inp := by
  have hlen := List.length_pos_of_ne_nil h
  have hblocks : (inp.length + 15) / 16 = (inp.length - min 16 inp.length + 15) / 16 + 1 := by omega
  simp [counterCrypt, cryptBlocks, hblocks, h, xorBytes]

/-- A block is its first byte and fifteen more. -/
theorem Block.toList_eq_cons (b : Block) : ∃ rest, b.toList = b[0] :: rest ∧ rest.length = 15 := by
  obtain ⟨rest, hrest⟩ : ∃ rest, b.toList = b[0] :: rest := by
    rw [← Vector.getElem_toList (by simp)]
    exact ⟨_, (List.getElem_cons_drop (by simp : 0 < b.toList.length)).symm⟩
  have hlen := congrArg List.length hrest
  rw [Vector.length_toList, List.length_cons] at hlen
  exact ⟨rest, hrest, by omega⟩

/-- R113 for one byte: from the keystream registers come the byte it is XORed with, and the registers for the bytes after it. -/
theorem counterCrypt_cons (xm : List Byte) : ∃ key ctr' xm',
    (xm'.length + 1) % 16 = xm.length % 16 ∧ (xm.length < 16 → xm'.length < 16) ∧
    ∀ b inp, counterCrypt E ctr xm (b :: inp) = (counterCrypt E ctr' xm' inp).push (key ^^^ b) := by
  cases xm with
  | nil =>
    obtain ⟨rest, hmask, hlen⟩ := Block.toList_eq_cons (E ctr)
    refine ⟨(E ctr)[0], inc32 ctr, rest, by simp [hlen], fun _ => by omega, fun b inp => ?_⟩
    rw [counterCrypt_refill E ctr (List.cons_ne_nil b inp), hmask, counterCrypt_leftover]
  | cons k xm =>
    exact ⟨k, ctr, xm, rfl, fun h => by rw [List.length_cons] at h; omega, counterCrypt_leftover E ctr k xm⟩

/-- R115 for two chunks. -/
theorem counterCrypt_append (xm inp inp' : List Byte) : counterCrypt E ctr xm (inp ++ inp') =
    (counterCrypt E (counterCrypt E ctr xm inp).ctr (counterCrypt E ctr xm inp).xm inp').after (counterCrypt E ctr xm inp).out := by
  induction inp generalizing ctr xm with
  | nil => simp
  | cons b inp ih =>
    obtain ⟨key, ctr', xm', -, -, hcons⟩ := counterCrypt_cons E ctr xm
    simp [hcons, ih]

@[simp] theorem counterCrypt_out_length (xm inp : List Byte) : (counterCrypt E ctr xm inp).out.length = inp.length := by
  induction inp generalizing ctr xm with
  | nil => simp
  | cons b inp ih =>
    obtain ⟨key, ctr', xm', -, -, hcons⟩ := counterCrypt_cons E ctr xm
    simp [hcons, ih]

/-- R115: the same keystream positions give the input back. -/
theorem counterCrypt_out (xm inp : List Byte) : counterCrypt E ctr xm (counterCrypt E ctr xm inp).out =
    ⟨inp, (counterCrypt E ctr xm inp).ctr, (counterCrypt E ctr xm inp).xm⟩ := by
  induction inp generalizing ctr xm with
  | nil => simp
  | cons b inp ih =>
    obtain ⟨key, ctr', xm', -, -, hcons⟩ := counterCrypt_cons E ctr xm
    simp [hcons, ih, Crypted.push]

/-- R19: the count of leftover keystream stays below sixteen. -/
theorem counterCrypt_xm_length_lt {xm : List Byte} (h : xm.length < 16) (inp : List Byte) :
    (counterCrypt E ctr xm inp).xm.length < 16 := by
  induction inp generalizing ctr xm with
  | nil => simpa using h
  | cons b inp ih =>
    obtain ⟨key, ctr', xm', -, hlt, hcons⟩ := counterCrypt_cons E ctr xm
    rw [hcons]
    exact ih ctr' (hlt h)

/-- R27: modulo sixteen, each input byte uses up one byte of leftover keystream. -/
theorem counterCrypt_xm_length_mod (xm inp : List Byte) :
    ((counterCrypt E ctr xm inp).xm.length + inp.length) % 16 = xm.length % 16 := by
  induction inp generalizing ctr xm with
  | nil => simp
  | cons b inp ih =>
    obtain ⟨key, ctr', xm', hmod, -, hcons⟩ := counterCrypt_cons E ctr xm
    have hrest := ih ctr' xm'
    rw [hcons, Crypted.push_xm, List.length_cons]
    omega

/-- A run chunk by chunk that has already put out `out` goes on as one call on all the chunks to come. -/
theorem foldl_counterCrypt (out xm : List Byte) (chunks : List (List Byte)) :
    chunks.foldl (fun sofar chunk =>
      let r := counterCrypt E sofar.ctr sofar.xm chunk
      ⟨sofar.out ++ r.out, r.ctr, r.xm⟩) (⟨out, ctr, xm⟩ : Crypted) = (counterCrypt E ctr xm chunks.flatten).after out := by
  induction chunks generalizing out ctr xm with
  | nil => simp [Crypted.after]
  | cons chunk chunks ih => rw [List.foldl_cons, ih, List.flatten_cons, counterCrypt_append, Crypted.after_append]

end

/-- Settles O16: the fold adds one chunk at a time to what one call has done. -/
theorem keystreamIsChunkIndependent : Obligations.KeystreamIsChunkIndependent := by
  unfold Obligations.KeystreamIsChunkIndependent
  intro E ctr xm chunks
  rw [foldl_counterCrypt, Crypted.after_nil]

/-- Settles O17: byte by byte, the registers move in the same way on the input and on the output. -/
theorem keystreamUndoesItself : Obligations.KeystreamUndoesItself := by
  unfold Obligations.KeystreamUndoesItself
  exact fun E ctr xm inp => ⟨counterCrypt_out_length E ctr xm inp, counterCrypt_out E ctr xm inp⟩

end Sys2Proof.Machine

/-!
R131, R160 to R172, R48: everything a command can answer with a next state, as one inversion lemma, and what follows from it about faults, responses,
refusals and the transitions of `MODE`.
-/

namespace Sys2Proof.Machine

/-! ### The operand checks -/

theorem operandCheck_fault_cases {i : Instr} {code : Byte} (h : operandCheck i = .fault code) :
    (code = codeInvalidNonceLength ∧ isInit i = true) ∨
    (code = codeBufferAliasing ∧ ∃ a n b m, i = .encrypt a n b m ∨ i = .decrypt a n b m) := by
  cases i with
  | initEnc | initDec =>
    simp only [operandCheck, checkNonceLength] at h
    split_ifs at h
    cases h
    exact .inl ⟨rfl, rfl⟩
  | encrypt a n b m | decrypt a n b m =>
    simp only [operandCheck, checkAliasing] at h
    split_ifs at h
    cases h
    exact .inr ⟨rfl, a, n, b, m, by simp⟩
  | tag => cases h
  | verify =>
    simp only [operandCheck, checkTagLength] at h
    split_ifs at h

theorem operandCheck_answer_cases {i : Instr} {code : Byte} (h : operandCheck i = .answer code) :
    code = codeAuthFailure ∧ ∃ a n b m, i = .verify a n b m := by
  cases i with
  | initEnc | initDec =>
    simp only [operandCheck, checkNonceLength] at h
    split_ifs at h
  | encrypt | decrypt =>
    simp only [operandCheck, checkAliasing] at h
    split_ifs at h
  | tag => cases h
  | verify a n b m =>
    simp only [operandCheck, checkTagLength] at h
    split_ifs at h
    cases h
    exact ⟨rfl, a, n, b, m, rfl⟩

theorem operandCheck_fault_mem_faultCodes {i : Instr} {code : Byte} (h : operandCheck i = .fault code) : code ∈ faultCodes := by
  obtain ⟨rfl, -⟩ | ⟨rfl, -⟩ := operandCheck_fault_cases h <;> decide

theorem checkAliasing_of_overlap {aAddr aLen bAddr : Word} (h : inexactOverlap aAddr bAddr aLen = true) :
    checkAliasing aAddr aLen bAddr = .fault codeBufferAliasing :=
  if_pos h

/-- `INIT_*` is the one kind of command allowed outside a live session. -/
theorem isInit_eq_false_of_disallowed {i : Instr} {m : Mode} (hm : m ≠ .faulted) (h : allowedIn i m = false) : isInit i = false := by
  cases i with
  | initEnc | initDec => simp [allowedIn, allowsInit, hm] at h
  | encrypt | decrypt | tag | verify => rfl

/-! ### The bodies -/

theorem commandBody_mode_ne_faulted (i : Instr) {s : State} (h : s.mode ≠ .faulted) : (commandBody i s).mode ≠ .faulted := by
  cases i <;> simp [commandBody, h]

@[simp] theorem commandBody_fcode (i : Instr) (s : State) : (commandBody i s).fcode = s.fcode := by
  cases i <;> simp [commandBody]

/-- A body answers `OK`, or `AUTH_FAILURE` where it is that of `VERIFY`. -/
theorem commandBody_resp_cases (i : Instr) (s : State) : (commandBody i s).resp = some codeOk ∨
    ((∃ a n b m, i = .verify a n b m) ∧ (commandBody i s).resp = some codeAuthFailure) := by
  cases i with
  | verify a n b m =>
    rw [commandBody, compareTag_resp]
    split
    · exact .inl rfl
    · exact .inr ⟨⟨a, n, b, m, rfl⟩, rfl⟩
  | initEnc | initDec | encrypt | decrypt | tag => simp [commandBody]

theorem SameRegisters.refl (s : State) : SameRegisters s s := ⟨rfl, rfl, rfl, rfl, rfl, rfl, rfl, rfl, rfl, rfl⟩

theorem SamePlatform.refl (s : State) : SamePlatform s s := ⟨rfl, rfl, rfl, rfl⟩

theorem commandBody_samePlatform (i : Instr) (s : State) : SamePlatform s (commandBody i s) := by
  cases i <;> simp [SamePlatform, commandBody]

/-! ### What a command can answer -/

/-- The next states of a command: latched, faulted, answered by the operand check, or left by its body. -/
theorem exec_next_cases {i : Instr} {s t : State} (h : exec i s = .next t) :
    (s.mode = .faulted ∧ t = s.answerLatched) ∨
    (s.mode ≠ .faulted ∧ ∃ code, t = s.raiseFault code ∧
      (allowedIn i s.mode = false ∧ code = codeRoleViolation ∨ allowedIn i s.mode = true ∧ operandCheck i = .fault code)) ∨
    (s.mode ≠ .faulted ∧ allowedIn i s.mode = true ∧ ∃ code, operandCheck i = .answer code ∧ t = s.respond code) ∨
    (s.mode ≠ .faulted ∧ allowedIn i s.mode = true ∧ operandCheck i = .pass ∧ HostReady i s ∧ t = commandBody i s) := by
  obtain ⟨hm, he⟩ | ⟨hm, ha, he⟩ | ⟨hm, ha, ⟨code, ho, he⟩ | ⟨code, ho, he⟩ | ⟨-, why, -, he⟩ | ⟨ho, hr, he⟩⟩ := exec_cases i s <;>
    rw [he] at h <;> cases h
  · exact .inl ⟨hm, rfl⟩
  · exact .inr (.inl ⟨hm, _, rfl, .inl ⟨ha, rfl⟩⟩)
  · exact .inr (.inl ⟨hm, code, rfl, .inr ⟨ha, ho⟩⟩)
  · exact .inr (.inr (.inl ⟨hm, ha, code, ho, rfl⟩))
  · exact .inr (.inr (.inr ⟨hm, ha, ho, hr, rfl⟩))

/-- A command that faults has failed its mode check or its operand check. -/
theorem exec_faulted_cases {i : Instr} {s t : State} (hm : s.mode ≠ .faulted) (h : exec i s = .next t) (ht : t.mode = .faulted) :
    ∃ code, t = s.raiseFault code ∧
      (allowedIn i s.mode = false ∧ code = codeRoleViolation ∨ allowedIn i s.mode = true ∧ operandCheck i = .fault code) := by
  obtain ⟨hf, -⟩ | ⟨-, hfault⟩ | ⟨-, -, code, -, rfl⟩ | ⟨-, -, -, -, rfl⟩ := exec_next_cases h
  · exact absurd hf hm
  · exact hfault
  · exact absurd ht hm
  · exact absurd ht (commandBody_mode_ne_faulted i hm)

theorem exec_samePlatform {i : Instr} {s t : State} (h : exec i s = .next t) : SamePlatform s t := by
  obtain ⟨-, rfl⟩ | ⟨-, code, rfl, -⟩ | ⟨-, -, code, -, rfl⟩ | ⟨-, -, -, -, rfl⟩ := exec_next_cases h
  · exact SamePlatform.refl s
  · exact SamePlatform.refl s
  · exact SamePlatform.refl s
  · exact commandBody_samePlatform i s

theorem exec_refused_iff {i : Instr} {s : State} {why : Refusal} : exec i s = .refused why ↔
    s.mode ≠ .faulted ∧ allowedIn i s.mode = true ∧ operandCheck i = .pass ∧ s.refusalOf (regionsOf i) = some why := by
  obtain ⟨hm, he⟩ | ⟨-, ha, he⟩ | ⟨hm, ha, ⟨code, ho, he⟩ | ⟨code, ho, he⟩ | ⟨ho, why', hr, he⟩ | ⟨-, hr, he⟩⟩ := exec_cases i s
  · simp [he, hm]
  · simp [he, ha]
  · simp [he, ho]
  · simp [he, ho]
  · simp [he, hm, ha, ho, hr]
  · simp [he, show s.refusalOf (regionsOf i) = none from hr]

/-- R48, for the command as a whole. -/
theorem State.exists_refusalOf_iff (s : State) (rs : List Region) : (∃ why, s.refusalOf rs = some why) ↔
    ∃ r ∈ rs, r.len ≠ 0 ∧ (2 ^ 64 < r.addr.toNat + r.len.toNat ∨
      (s.windows.any (fun w => w.covers r) = false ∧ Config.memAdmits r.addr r.len = false)) := by
  rw [← Option.ne_none_iff_exists', ne_eq, s.refusalOf_eq_none_iff]
  simp only [s.regionRefusal_eq_none_iff, not_forall, exists_prop, not_or, not_and_or, Bool.not_eq_true, Nat.not_le]

/-- Settles O20: past the checks only the regions are looked at, and one of them stops the command when it wraps or is not admitted. -/
theorem unadmittedRegionIsRefused : Obligations.UnadmittedRegionIsRefused := by
  unfold Obligations.UnadmittedRegionIsRefused
  intro i s
  simp only [exec_refused_iff, exists_and_left, s.exists_refusalOf_iff]

/-- Settles O37: of the branches of `exec` only that of an unadmitted region gives no next state. -/
theorem admittedCommandsComplete : Obligations.AdmittedCommandsComplete := by
  unfold Obligations.AdmittedCommandsComplete
  intro i s hready
  obtain ⟨-, he⟩ | ⟨-, -, he⟩ | ⟨-, -, ⟨code, -, he⟩ | ⟨code, -, he⟩ | ⟨-, why, hr, -⟩ | ⟨-, -, he⟩⟩ := exec_cases i s
  · exact ⟨_, he⟩
  · exact ⟨_, he⟩
  · exact ⟨_, he⟩
  · exact ⟨_, he⟩
  · rw [hready] at hr
    cases hr
  · exact ⟨_, he⟩

/-! ### Faults and responses -/

@[simp] theorem inexactOverlap_self (a n : Word) : inexactOverlap a a n = false := by simp [inexactOverlap]

/-- Settles O32: the operand check raises the fault; a region does not differ from itself in its start address. -/
theorem inexactAliasingFaults : Obligations.InexactAliasingFaults := by
  unfold Obligations.InexactAliasingFaults
  intro s aAddr aLen bAddr bLen
  refine ⟨fun hm h => ?_, fun hm h => ?_, inexactOverlap_self aAddr aLen⟩ <;>
    exact exec_of_operand_fault (by simp [hm]) (decide_eq_true hm) (checkAliasing_of_overlap h)

/-- Settles O35: the two checks that raise a fault read the command and `MODE` alone, so they fail from `s'` as well. -/
theorem faultsDependOnDescriptorAndMode : Obligations.FaultsDependOnDescriptorAndMode := by
  unfold Obligations.FaultsDependOnDescriptorAndMode
  intro i s s' t hmode hm h ht
  obtain ⟨code, rfl, ⟨ha, rfl⟩ | ⟨ha, ho⟩⟩ := exec_faulted_cases hm h ht
  · exact ⟨_, exec_of_disallowed_mode hmode.symm hm ha, rfl, rfl, rfl⟩
  · rw [hmode] at hm ha
    exact ⟨_, exec_of_operand_fault hm ha ho, rfl, rfl, rfl⟩

theorem isFatal_of_mem_faultCodes {code : Byte} (h : code ∈ faultCodes) : isFatal code = true := by
  revert code
  decide

@[simp] theorem isFatal_codeOk : isFatal codeOk = false := by decide
@[simp] theorem isFatal_codeAuthFailure : isFatal codeAuthFailure = false := by decide

/-- The code of a fault, whichever check raised it. -/
theorem code_mem_faultCodes {i : Instr} {m : Mode} {code : Byte}
    (h : allowedIn i m = false ∧ code = codeRoleViolation ∨ allowedIn i m = true ∧ operandCheck i = .fault code) :
    code ∈ faultCodes := by
  obtain ⟨-, rfl⟩ | ⟨-, ho⟩ := h
  · decide
  · exact operandCheck_fault_mem_faultCodes ho

end Sys2Proof.Machine

namespace Sys2Proof

open Machine

/-- Settles O36: the code of each outcome of `exec` is known, and of these codes the faults' have bit 7 set. -/
theorem responseCodes : Obligations.ResponseCodes := by
  unfold Obligations.ResponseCodes
  intro i s t hm h
  obtain ⟨hf, -⟩ | ⟨-, code, rfl, hwhy⟩ | ⟨-, -, code, ho, rfl⟩ | ⟨-, -, -, -, rfl⟩ := exec_next_cases h
  · exact absurd hf hm
  · have hfatal := isFatal_of_mem_faultCodes (code_mem_faultCodes hwhy)
    refine ⟨code, rfl, ?_, by simp [hfatal], fun _ => rfl, by simp [hfatal]⟩
    obtain ⟨ha, rfl⟩ | ⟨-, ho⟩ := hwhy
    · exact .inr (.inr (.inr (.inr ⟨rfl, isInit_eq_false_of_disallowed hm ha⟩)))
    · obtain ⟨rfl, hi⟩ | ⟨rfl, hi⟩ := operandCheck_fault_cases ho
      · exact .inr (.inr (.inl ⟨rfl, hi⟩))
      · exact .inr (.inr (.inr (.inl ⟨rfl, hi⟩)))
  · obtain ⟨rfl, hi⟩ := operandCheck_answer_cases ho
    exact ⟨codeAuthFailure, rfl, .inr (.inl ⟨rfl, hi⟩), by simp [hm], by simp, fun _ => rfl⟩
  · have hmode := commandBody_mode_ne_faulted i hm
    obtain hresp | ⟨hi, hresp⟩ := commandBody_resp_cases i s
    · exact ⟨codeOk, hresp, .inl rfl, by simp [hmode], by simp, fun _ => commandBody_fcode i s⟩
    · exact ⟨codeAuthFailure, hresp, .inr (.inl ⟨rfl, hi⟩), by simp [hmode], by simp, fun _ => commandBody_fcode i s⟩

end Sys2Proof

/-!
R131, R139, R168: the transitions of `MODE` on a command, and the order of its checks as it is read off the descriptor's words.
-/

namespace Sys2Proof.Machine

/-! ### The transitions of `MODE` -/

theorem checkNonceLength_eq_pass_iff {aLen : Word} : checkNonceLength aLen = .pass ↔ aLen = 16 := by
  unfold checkNonceLength
  split_ifs with h
  · exact iff_of_true rfl h
  · exact iff_of_false (by simp) h

theorem checkAliasing_eq_pass_iff {aAddr aLen bAddr : Word} :
    checkAliasing aAddr aLen bAddr = .pass ↔ inexactOverlap aAddr bAddr aLen = false := by
  simp [checkAliasing]

/-- A command that ends unfaulted was in a mode that allows it, and ran its body, or was a `VERIFY` answered for its length. -/
theorem exec_unfaulted_cases {i : Instr} {s t : State} (h : exec i s = .next t) (ht : t.mode ≠ .faulted) :
    s.mode ≠ .faulted ∧ allowedIn i s.mode = true ∧
      (operandCheck i = .pass ∧ HostReady i s ∧ t = commandBody i s ∨
        (∃ a n b m, i = .verify a n b m) ∧ t = s.respond codeAuthFailure) := by
  obtain ⟨hm, rfl⟩ | ⟨-, code, rfl, -⟩ | ⟨hm, ha, code, ho, rfl⟩ | ⟨hm, ha, ho, hr, rfl⟩ := exec_next_cases h
  · exact absurd hm ht
  · exact absurd rfl ht
  · obtain ⟨rfl, hi⟩ := operandCheck_answer_cases ho
    exact ⟨hm, ha, .inr ⟨hi, rfl⟩⟩
  · exact ⟨hm, ha, .inl ⟨ho, hr, rfl⟩⟩

/-- Settles O57: an unfaulted outcome has passed the checks of its command and its body writes the mode; a fault writes what R166 says. -/
theorem modeTransitions : Obligations.ModeTransitions := by
  unfold Obligations.ModeTransitions
  intro i s t h
  refine ⟨fun hm => ?_, fun hm ht => ?_, fun hm ht => ?_⟩
  · rw [exec_of_faulted i hm] at h
    cases h
    exact hm
  · obtain ⟨-, ha, ⟨ho, -, rfl⟩ | ⟨⟨a, n, b, m, rfl⟩, rfl⟩⟩ := exec_unfaulted_cases h ht
    · cases i with
      | initEnc | initDec => exact ⟨checkNonceLength_eq_pass_iff.1 ho, by simp [commandBody]⟩
      | encrypt | decrypt =>
        have hmode := of_decide_eq_true ha
        exact ⟨checkAliasing_eq_pass_iff.1 ho, hmode, by simpa [commandBody] using hmode⟩
      | tag => exact ⟨ha, by simp [commandBody]⟩
      | verify =>
        have hmode := of_decide_eq_true ha
        exact ⟨hmode, by simpa [commandBody] using hmode⟩
    · have hmode := of_decide_eq_true ha
      exact ⟨hmode, hmode⟩
  · obtain ⟨code, rfl, hwhy⟩ := exec_faulted_cases hm h ht
    exact ⟨rfl, code_mem_faultCodes hwhy⟩

/-! ### The order of the checks -/

/-- R131 check 3, on the words of the descriptor. -/
theorem allowedIn_eq_false_iff (i : Instr) {m : Mode} (hm : m ≠ .faulted) : allowedIn i m = false ↔
    ((encode i).w0 = 3 ∧ m ≠ .enc) ∨ ((encode i).w0 = 4 ∧ m ≠ .dec) ∨ ((encode i).w0 = 5 ∧ m = .idle) ∨
      ((encode i).w0 = 6 ∧ m ≠ .dec) := by
  cases i <;> cases m <;> simp [allowedIn, allowsInit, allowsEncrypt, allowsDecrypt, allowsTag, allowsVerify, Mode.live, encode] at hm ⊢

/-- R131 check 4, on the words of the descriptor. -/
theorem operandCheck_eq (i : Instr) : operandCheck i =
    if ((encode i).w0 = 1 ∨ (encode i).w0 = 2) ∧ (encode i).w2 ≠ 16 then .fault 0x80
    else if ((encode i).w0 = 3 ∨ (encode i).w0 = 4) ∧ inexactOverlap (encode i).w1 (encode i).w3 (encode i).w2 = true then .fault 0x81
    else if (encode i).w0 = 6 ∧ (encode i).w2 ≠ 16 then .answer 0x01
    else .pass := by
  cases i with
  | initEnc _ aLen | initDec _ aLen =>
    by_cases h : aLen = 16
    · subst h
      rfl
    · rw [if_pos ⟨by simp [encode], h⟩]
      exact checkNonceLength_of_ne h
  | encrypt | decrypt => simp [operandCheck, checkAliasing, codeBufferAliasing, encode]
  | tag => rfl
  | verify _ aLen =>
    by_cases h : aLen = 16
    · subst h
      rfl
    · rw [if_neg (by simp [encode]), if_neg (by simp [encode]), if_pos ⟨rfl, h⟩]
      exact checkTagLength_of_ne h

/-- Past all checks a command is refused for a region or runs. -/
theorem exec_of_checked {i : Instr} {s : State} (hm : s.mode ≠ .faulted) (ha : allowedIn i s.mode = true)
    (ho : operandCheck i = .pass) : (∃ why, exec i s = .refused why) ∨
      (∃ t, exec i s = .next t ∧ t.mode ≠ .faulted ∧ (t.resp = some 0x00 ∨ ((encode i).w0 = 6 ∧ t.resp = some 0x01))) := by
  cases hr : s.refusalOf (regionsOf i) with
  | some why => exact .inl ⟨why, exec_refused_iff.2 ⟨hm, ha, ho, hr⟩⟩
  | none =>
    refine .inr ⟨_, exec_of_ready hm ha ho hr, commandBody_mode_ne_faulted i hm, ?_⟩
    obtain hresp | ⟨⟨a, n, b, m, rfl⟩, hresp⟩ := commandBody_resp_cases i s
    · exact .inl hresp
    · exact .inr ⟨rfl, hresp⟩

/-- Settles O29: a legal descriptor is the encoding of a command, and the conditions of the chain are that command's checks in the order of `exec`. -/
theorem checksDecideInOrder : Obligations.ChecksDecideInOrder := by
  unfold Obligations.ChecksDecideInOrder
  intro s d rest hi s'
  rw [step_of_present hi]
  change State at s'
  by_cases hm : s'.mode = .faulted
  · rw [if_pos hm]
    exact runDescriptor_of_faulted d hm
  rw [if_neg hm]
  by_cases hw : legalW0 d.w0 = false
  · rw [if_pos hw, runDescriptor_of_illegalW0 s' hw, illegalCommand_of_not_faulted hm]
    rfl
  rw [if_neg hw]
  obtain ⟨i, rfl⟩ := exists_encode_of_legalW0 (Bool.not_eq_false _ ▸ hw)
  rw [runDescriptor_of_decode_ok (decode_encode i)]
  have hallowed := allowedIn_eq_false_iff i hm
  by_cases hrole : allowedIn i s'.mode = false
  · rw [if_pos (hallowed.1 hrole)]
    exact exec_of_disallowed_mode rfl hm hrole
  rw [if_neg (mt hallowed.2 hrole)]
  have ha : allowedIn i s'.mode = true := Bool.not_eq_false _ ▸ hrole
  have hcheck := operandCheck_eq i
  split_ifs at hcheck ⊢
  · exact exec_of_operand_fault hm ha hcheck
  · exact exec_of_operand_fault hm ha hcheck
  · exact exec_of_operand_answer hm ha hcheck
  · exact exec_of_checked hm ha hcheck

end Sys2Proof.Machine

/-!
R7, R41, R46, R190: regions that do not wrap, what is read inside and outside of them after a write, and the moves of the host between commands.
-/

namespace Sys2Proof.Machine

/-! ### Regions -/

theorem Region.holds_iff (r : Region) (a : Word) :
    r.holds a = true ↔ r.addr.toNat ≤ a.toNat ∧ a.toNat < r.addr.toNat + r.len.toNat := by
  simp [Region.holds]

theorem inexactOverlap_iff (a b n : Word) : inexactOverlap a b n = true ↔
    0 < n.toNat ∧ a ≠ b ∧ a.toNat < b.toNat + n.toNat ∧ b.toNat < a.toNat + n.toNat := by
  simp [inexactOverlap, and_assoc]

/-- Settles O19: the greater of the two start addresses is shared if any address is. -/
theorem inexactOverlapIsSharedMemory : Obligations.InexactOverlapIsSharedMemory := by
  unfold Obligations.InexactOverlapIsSharedMemory
  intro a b n _ _
  simp only [inexactOverlap_iff, Region.holds_iff]
  constructor
  · rintro ⟨hn, hne, hab, hba⟩
    obtain hle | hle := Nat.le_total a.toNat b.toNat
    · exact ⟨hne, b, by omega, by omega⟩
    · exact ⟨hne, a, by omega, by omega⟩
  · rintro ⟨hne, x, hxa, hxb⟩
    exact ⟨by omega, hne, by omega, by omega⟩

/-- R48: the region is empty, or it does not run past the top of the address space. -/
def Region.Fits (r : Region) : Prop := r.len = 0 ∨ r.addr.toNat + r.len.toNat ≤ 2 ^ 64

theorem HostReady.region_fits {i : Instr} {s : State} (h : HostReady i s) {r : Region} (hr : r ∈ regionsOf i) : r.Fits :=
  h.fits hr

theorem HostReady.congr {i : Instr} {s t : State} (h : HostReady i s) (hwin : t.windows = s.windows) : HostReady i t :=
  (State.refusalOf_congr hwin _).trans h

/-- The bytes of a region that fits are those its addresses hold. -/
theorem Region.Fits.holds_offset {r : Region} (h : r.Fits) {i : Nat} (hi : i < r.len.toNat) :
    r.holds (r.addr + BitVec.ofNat 64 i) = true := by
  obtain h | h := h
  · simp [h] at hi
  · rw [Region.holds_iff, toNat_add_offset hi h]
    omega

/-- An address a region holds is its start plus an offset. -/
theorem Region.exists_offset_of_holds {r : Region} {a : Word} (h : r.holds a = true) :
    ∃ i < r.len.toNat, a = r.addr + BitVec.ofNat 64 i := by
  rw [Region.holds_iff] at h
  refine ⟨a.toNat - r.addr.toNat, by omega, ?_⟩
  bv_omega

/-! ### Reading a region -/

theorem State.memRead_congr {s t : State} {addr n : Word}
    (h : ∀ i < n.toNat, t.readByte (addr + BitVec.ofNat 64 i) = s.readByte (addr + BitVec.ofNat 64 i)) :
    t.memRead addr n = s.memRead addr n :=
  List.map_congr_left fun i hi => h i (List.mem_range.1 hi)

/-- `MemRead` sees memory and no register. -/
theorem State.memRead_eq_of_mem_eq {s t : State} (h : t.mem = s.mem) (addr n : Word) : t.memRead addr n = s.memRead addr n := by
  simp only [State.memRead, State.readByte, h]

/-- R41: a whole region reads back what was written to it. -/
theorem State.memRead_of_written {s t : State} {addr n : Word} {bs : List Byte} (ht : t.mem = Memory.writeFrom s.mem addr bs)
    (hwf : Memory.wf s.mem = true) (hlen : bs.length = n.toNat) : t.memRead addr n = bs := by
  refine List.ext_getElem (by simp [hlen]) fun i _ hi => ?_
  rw [State.memRead_getElem, State.readByte, ht]
  exact Memory.readByte_writeFrom_getElem hwf (by omega) hi

/-- R41: the frame of a write to a region. -/
theorem State.readByte_of_written {s t : State} {r : Region} {bs : List Byte} (ht : t.mem = Memory.writeFrom s.mem r.addr bs)
    (hfits : r.Fits) (hlen : bs.length = r.len.toNat) {a : Word} (ha : r.holds a = false) : t.readByte a = s.readByte a := by
  rw [State.readByte, ht]
  refine Memory.readByte_writeFrom_other s.mem r.addr bs a fun i hi heq => ?_
  rw [heq, hfits.holds_offset (hlen ▸ hi)] at ha
  cases ha

/-! ### The regions of an abandoned command -/

/-- A descriptor's regions are touched when it decodes to a command past its checks, else none are. -/
theorem touchedRegions_cases (s : State) (d : Descriptor) :
    touchedRegions s d = ([], []) ∨
    ∃ i, decode d = .ok i ∧ s.mode ≠ .faulted ∧ allowedIn i s.mode = true ∧ operandCheck i = .pass ∧
      touchedRegions s d = (regionsOf i, writeRegions i) := by
  unfold touchedRegions
  cases decode d with
  | error => exact .inl rfl
  | ok i =>
    by_cases h : s.mode ≠ .faulted ∧ allowedIn i s.mode = true ∧ operandCheck i = .pass
    · obtain ⟨hm, ha, ho⟩ := h
      exact .inr ⟨i, rfl, hm, ha, ho, if_pos ⟨hm, ha, ho⟩⟩
    · exact .inl (if_neg h)

@[simp] theorem abandonedBytes_length (draw n : Nat) : (abandonedBytes draw n).length = n := by simp [abandonedBytes]

/-- Abandoning output regions writes memory and nothing else. -/
theorem State.abandonOutput_eq (rs : List Region) (s : State) : s.abandonOutput rs = { s with mem := (s.abandonOutput rs).mem } := by
  induction rs generalizing s with
  | nil => rfl
  | cons r rs ih =>
    rw [State.abandonOutput, ih]
    rfl

theorem State.abandonOutput_readByte {rs : List Region} {a : Word} (s : State) (hfits : ∀ r ∈ rs, r.Fits)
    (ha : ∀ r ∈ rs, r.holds a = false) : (s.abandonOutput rs).readByte a = s.readByte a := by
  induction rs generalizing s with
  | nil => rfl
  | cons r rs ih =>
    rw [List.forall_mem_cons] at hfits ha
    obtain ⟨hfit, hfits⟩ := hfits
    obtain ⟨har, ha⟩ := ha
    rw [State.abandonOutput, ih _ hfits ha, State.readByte_of_written rfl hfit (abandonedBytes_length _ _) har]

theorem mem_regionsOf_of_mem_writeRegions {i : Instr} {r : Region} (h : r ∈ writeRegions i) : r ∈ regionsOf i :=
  List.mem_append_right _ h

theorem mem_regionsOf_of_mem_readRegions {i : Instr} {r : Region} (h : r ∈ readRegions i) : r ∈ regionsOf i :=
  List.mem_append_left _ h

theorem resetDuringCommand_of_admitted {d : Descriptor} {s : State} (h : s.refusalOf (touchedRegions s d).1 = none) :
    resetDuringCommand d s = .next (s.abandonOutput (touchedRegions s d).2).assertReset := by
  simp only [resetDuringCommand, h]

/-! ### Reset -/

/-- Settles O38: `State.reset` is written out with these values. -/
theorem resetControlRegisters : Obligations.ResetControlRegisters := by
  unfold Obligations.ResetControlRegisters
  decide

theorem step_of_reset {s : State} {rest : List HostMove} (h : s.inbox = .reset :: rest) :
    step s = .next (State.assertReset { s with inbox := rest }) := by
  simp [step, State.takeMove, h]

theorem step_of_resetDuring {s : State} {d : Descriptor} {rest : List HostMove} (h : s.inbox = .resetDuring d :: rest) :
    step s = resetDuringCommand d { s with inbox := rest } := by
  simp [step, State.takeMove, h]

/-- Settles O39: a reset move is `assertReset`, which writes these registers and no memory. -/
theorem resetMoveRecovers : Obligations.ResetMoveRecovers := by
  unfold Obligations.ResetMoveRecovers
  intro s rest hi
  exact ⟨_, step_of_reset hi, rfl, rfl, rfl, rfl, rfl, rfl, fun _ => rfl, rfl, rfl, rfl⟩

/-- Settles O40: the abandoned command has written only to its output region, and only if it was past its checks; then reset is asserted. -/
theorem resetDuringCommandAbandonsIt : Obligations.ResetDuringCommandAbandonsIt := by
  unfold Obligations.ResetDuringCommandAbandonsIt
  intro s d rest hi hready
  rw [step_of_resetDuring hi]
  obtain htouched | ⟨i, hd, hm, ha, ho, htouched⟩ := touchedRegions_cases { s with inbox := rest } d
  · refine ⟨_, resetDuringCommand_of_admitted (by rw [htouched]; rfl), ?_⟩
    rw [htouched]
    exact ⟨rfl, rfl, rfl, rfl, rfl, rfl, fun _ _ => rfl, fun _ _ => rfl⟩
  · have hr : HostReady i { s with inbox := rest } := (hready i hd).congr rfl
    refine ⟨_, resetDuringCommand_of_admitted (by rw [htouched]; exact hr), ?_⟩
    rw [htouched, State.abandonOutput_eq]
    refine ⟨rfl, rfl, rfl, rfl, rfl, rfl, fun a hout => ?_, fun hfail => ?_⟩
    · exact State.abandonOutput_readByte { s with inbox := rest }
        (fun r hr' => hr.region_fits (mem_regionsOf_of_mem_writeRegions hr')) (hout i hd)
    · obtain hm' | ha' | ho' := hfail i hd
      · exact absurd hm' hm
      · exact absurd ha (by simpa using ha')
      · exact absurd ho ho'

/-! ### Idle and the moves of the host and the platform -/

theorem step_of_poke {s : State} {addr : Word} {v : Byte} {rest : List HostMove} (h : s.inbox = .poke addr v :: rest) :
    step s = .next (State.memWrite { s with inbox := rest } addr [v]) := by
  simp [step, State.takeMove, h, hostPoke]

theorem step_of_connectCipher {s : State} {port : CipherPort} {rest : List HostMove} (h : s.inbox = .connectCipher port :: rest) :
    step s = connectCipherMove port { s with inbox := rest } := by
  simp [step, State.takeMove, h]

theorem step_of_rekey {s : State} {port : CipherPort} {d : Descriptor} {rest : List HostMove} (h : s.inbox = .rekey port d :: rest) :
    step s = rekeyMove port d { s with inbox := rest } := by
  simp [step, State.takeMove, h]

theorem step_of_empty_inbox {s : State} (h : s.inbox = []) : step s = .next s := by
  simp [step, State.takeMove, h, idleStep]

theorem startsSession_of_decode_ok {d : Descriptor} {i : Instr} (h : decode d = .ok i) : startsSession d = isInit i := by
  simp [startsSession, h]

/-- A presented descriptor leaves the platform as it was. -/
theorem runDescriptor_samePlatform {d : Descriptor} {s t : State} (h : runDescriptor d s = .next t) : SamePlatform s t := by
  unfold runDescriptor at h
  split at h
  · exact exec_samePlatform h
  · cases h
    unfold illegalCommand
    split <;> exact SamePlatform.refl s

theorem resetDuringCommand_cipher {d : Descriptor} {s t : State} (h : resetDuringCommand d s = .next t) : t.cipher = s.cipher := by
  unfold resetDuringCommand at h
  split at h
  · cases h
  · cases h
    rw [State.abandonOutput_eq]
    rfl

/-- R196: a step from a live session that changes the cipher is the start of the next session. -/
theorem rekey_of_step_cipher_ne {s t : State} (hlive : s.mode.live = true) (h : step s = .next t) (hne : t.cipher ≠ s.cipher) :
    ∃ port d rest i, s.inbox = .rekey port d :: rest ∧ decode d = .ok i ∧ isInit i = true := by
  obtain ⟨-, hs⟩ | ⟨d, rest, -, hs⟩ | ⟨addr, v, rest, -, hs⟩ | ⟨rest, -, hs⟩ | ⟨d, rest, -, hs⟩ | ⟨port, rest, -, hs⟩ |
    ⟨port, d, rest, hi, hs⟩ := step_cases s <;> rw [hs] at h
  · cases h
    exact absurd rfl hne
  · obtain ⟨-, hcipher, -, -⟩ := runDescriptor_samePlatform h
    exact absurd hcipher hne
  · cases h
    exact absurd rfl hne
  · cases h
    exact absurd rfl hne
  · exact absurd (resetDuringCommand_cipher h) hne
  · obtain ⟨hmay, hc⟩ | ⟨-, -, hc⟩ := connectCipherMove_cases port { s with inbox := rest } <;> rw [hc] at h <;> cases h
    obtain hidle | hport := hmay
    · rw [hlive] at hidle
      cases hidle
    · exact absurd hport hne
  · obtain ⟨hmay, hr⟩ | ⟨-, -, -, hr⟩ := rekeyMove_cases port d { s with inbox := rest } <;> rw [hr] at h
    · obtain ⟨-, hcipher, -, -⟩ := runDescriptor_samePlatform h
      obtain hidle | hport | hstart := hmay
      · rw [hlive] at hidle
        cases hidle
      · exact absurd (hcipher.trans hport) hne
      · obtain ⟨i, hd, hinit⟩ := (startsSession_iff d).1 hstart
        exact ⟨port, d, rest, i, hi, hd, hinit⟩
    · cases h

theorem step_poke_effect {s : State} {addr : Word} {v : Byte} {rest : List HostMove} (hwf : Memory.wf s.mem = true)
    (hi : s.inbox = .poke addr v :: rest) :
    ∃ t, step s = .next t ∧ SameRegisters s t ∧ t.resp = s.resp ∧ t.inbox = rest ∧ t.readByte addr = v ∧
      ∀ a : Word, a ≠ addr → t.readByte a = s.readByte a := by
  refine ⟨_, step_of_poke hi, SameRegisters.refl s, rfl, rfl, ?_, fun a ha => ?_⟩
  · exact Memory.readByte_writeByte_self ((Memory.wf_iff_above s.mem).1 hwf)
  · exact Memory.readByte_writeByte_other v s.mem (mt BitVec.eq_of_toNat_eq ha)

theorem connectCipherMove_of_not_live {port : CipherPort} {s : State} (h : s.mode.live = false) :
    connectCipherMove port s = .next { s with cipher := port } := by
  obtain ⟨-, hc⟩ | ⟨hlive, -, -⟩ := connectCipherMove_cases port s
  · exact hc
  · rw [h] at hlive
    cases hlive

theorem connectCipherMove_of_live {port : CipherPort} {s : State} (h : s.mode.live = true) (hne : port ≠ s.cipher) :
    connectCipherMove port s = .refused .cipherFixedInSession := by
  obtain ⟨hidle | hport, -⟩ | ⟨-, -, hc⟩ := connectCipherMove_cases port s
  · rw [h] at hidle
    cases hidle
  · exact absurd hport hne
  · exact hc

theorem rekeyMove_of_init {port : CipherPort} {d : Descriptor} {i : Instr} (hd : decode d = .ok i) (hi : isInit i = true) (s : State) :
    rekeyMove port d s = exec i { s with cipher := port } := by
  obtain ⟨-, hr⟩ | ⟨-, -, hstart, -⟩ := rekeyMove_cases port d s
  · rw [hr, runDescriptor_of_decode_ok hd]
  · rw [startsSession_of_decode_ok hd, hi] at hstart
    cases hstart

theorem rekeyMove_of_live {port : CipherPort} {d : Descriptor} {i : Instr} {s : State} (hd : decode d = .ok i) (hi : isInit i = false)
    (hlive : s.mode.live = true) (hne : port ≠ s.cipher) : rekeyMove port d s = .refused .cipherFixedInSession := by
  obtain ⟨hidle | hport | hstart, -⟩ | ⟨-, -, -, hr⟩ := rekeyMove_cases port d s
  · rw [hlive] at hidle
    cases hidle
  · exact absurd hport hne
  · rw [startsSession_of_decode_ok hd, hi] at hstart
    cases hstart
  · exact hr

/-- Settles O28: one rule per move, and the cipher of a live session changes with no other move than the one that starts the next session. -/
theorem idleAndHostMoves : Obligations.IdleAndHostMoves := by
  unfold Obligations.IdleAndHostMoves
  refine ⟨fun s => step_of_empty_inbox, fun s addr v rest => step_poke_effect, fun s port rest hi => ?_,
    fun s port d i rest hi hd => ?_, fun s t => rekey_of_step_cipher_ne⟩
  · rw [step_of_connectCipher hi]
    exact ⟨fun hidle => connectCipherMove_of_not_live hidle, fun hlive hne => connectCipherMove_of_live hlive hne⟩
  · rw [step_of_rekey hi]
    exact ⟨fun hinit => rekeyMove_of_init hd hinit _, fun hlive hinit hne => rekeyMove_of_live hd hinit hlive hne⟩

end Sys2Proof.Machine

/-!
R132 to R138, R44: each command that passes its checks, as its body: what it writes to registers and memory and what it leaves.
-/

namespace Sys2Proof.Machine

section

variable {s : State} {aAddr aLen bAddr bLen : Word}

/-! ### Ready commands run their bodies -/

theorem exec_initEnc_of_ready (hm : s.mode ≠ .faulted) (hr : HostReady (.initEnc aAddr 16 bAddr bLen) s) :
    exec (.initEnc aAddr 16 bAddr bLen) s = .next (initSession .enc aAddr bAddr bLen s) :=
  exec_of_ready hm (decide_eq_true hm) rfl hr

/-- The two construction commands touch the same regions. -/
theorem exec_initDec_of_ready (hm : s.mode ≠ .faulted) (hr : HostReady (.initEnc aAddr 16 bAddr bLen) s) :
    exec (.initDec aAddr 16 bAddr bLen) s = .next (initSession .dec aAddr bAddr bLen s) :=
  exec_of_ready hm (decide_eq_true hm) rfl hr

theorem exec_encrypt_of_ready (hm : s.mode = .enc) (ho : inexactOverlap aAddr bAddr aLen = false)
    (hr : HostReady (.encrypt aAddr aLen bAddr bLen) s) :
    exec (.encrypt aAddr aLen bAddr bLen) s = .next (cryptData aAddr aLen bAddr s) :=
  exec_of_ready (by simp [hm]) (decide_eq_true hm) (checkAliasing_eq_pass_iff.2 ho) hr

/-- The two data commands touch the same regions. -/
theorem exec_decrypt_of_ready (hm : s.mode = .dec) (ho : inexactOverlap aAddr bAddr aLen = false)
    (hr : HostReady (.encrypt aAddr aLen bAddr bLen) s) :
    exec (.decrypt aAddr aLen bAddr bLen) s = .next (cryptData aAddr aLen bAddr s) :=
  exec_of_ready (by simp [hm]) (decide_eq_true hm) (checkAliasing_eq_pass_iff.2 ho) hr

theorem ne_faulted_of_live {m : Mode} (h : m.live = true) : m ≠ .faulted := by
  rintro rfl
  cases h

theorem exec_tag_of_ready (hm : s.mode.live = true) (hr : HostReady (.tag aAddr aLen bAddr bLen) s) :
    exec (.tag aAddr aLen bAddr bLen) s = .next (writeTag bAddr s) :=
  exec_of_ready (ne_faulted_of_live hm) hm rfl hr

/-! ### Construction -/

/-- Settles O41: the closed forms of the registers after `INIT(ENC)`, the table by what `BuildTable` holds. -/
theorem initEncBuildsSession : Obligations.InitEncBuildsSession := by
  unfold Obligations.InitEncBuildsSession
  intro s aAddr bAddr bLen hm hr
  refine ⟨_, exec_initEnc_of_ready hm hr, fun k => ?_, ?_⟩
  · rw [initSession_pt, buildTable_read_bitrev4]
  · simp [SameMemory, SamePlatform, State.readByte, codeOk, Config.nonceLen]

/-- R85: the table does not depend on the one it replaces. -/
theorem buildTable_congr (old old' : ProductTable) (H : FE) : buildTable old H = buildTable old' H :=
  ProductTable.ext_read fun i => by rw [buildTable_read, buildTable_read]

/-- A state is its registers, its memory, its response port and what belongs to the host and the platform. -/
theorem State.eq_of_same {s t : State} (hregs : SameRegisters s t) (hmem : t.mem = s.mem) (hresp : t.resp = s.resp)
    (hplatform : SamePlatform s t) : s = t := by
  obtain ⟨h1, h2, h3, h4, h5, h6, h7, h8, h9, h10⟩ := hregs
  obtain ⟨h11, h12, h13, h14⟩ := hplatform
  cases s
  cases t
  simp_all only

/-- R132, corner cases: `INIT` reads `FCODE`, memory and the platform, and no session register. -/
theorem initSession_congr {s s' : State} (role : Mode) (aAddr bAddr bLen : Word) (hfcode : s.fcode = s'.fcode) (hmem : s.mem = s'.mem)
    (hplatform : SamePlatform s s') : initSession role aAddr bAddr bLen s = initSession role aAddr bAddr bLen s' := by
  obtain ⟨hinbox, hcipher, hwindows, hdraws⟩ := hplatform
  have hE : s'.E = s.E := by rw [State.E, hcipher, State.E]
  have hpt : s'.loadTable.pt = s.loadTable.pt := by rw [State.loadTable_pt, State.loadTable_pt, hE, buildTable_congr]
  have hread : ∀ addr n, s'.memRead addr n = s.memRead addr n := State.memRead_eq_of_mem_eq hmem.symm
  refine State.eq_of_same ?_ (by simp [hmem]) (by simp) (by simp [SamePlatform, hinbox, hcipher, hwindows, hdraws])
  have htable : (initSession role aAddr bAddr bLen s').pt = (initSession role aAddr bAddr bLen s).pt := by
    simpa only [initSession_pt, State.loadTable_pt] using hpt
  exact ⟨by simp, by simp [hfcode], htable, by rw [initSession_gh, initSession_gh, hpt, hread], by simp,
    by rw [initSession_ctr, initSession_ctr, hpt, hread], by rw [initSession_tmask, initSession_tmask, hpt, hread, hE],
    by simp, by simp, by simp⟩

/-- Settles O43: past its checks an `INIT_*` leaves the state that `initSession` computes, and that reads nothing of the session before. -/
theorem initForgetsEarlierSession : Obligations.InitForgetsEarlierSession := by
  unfold Obligations.InitForgetsEarlierSession
  intro i s s' t t' hi ho hm hm' hfcode hmem hplatform h h'
  have hbody : ∀ {s t : State}, s.mode ≠ .faulted → exec i s = .next t → t = commandBody i s := by
    intro s t hm h
    obtain ⟨hf, -⟩ | ⟨-, code, -, ⟨ha, -⟩ | ⟨-, ho'⟩⟩ | ⟨-, -, code, ho', -⟩ | ⟨-, -, -, -, ht⟩ := exec_next_cases h
    · exact absurd hf hm
    · rw [isInit_eq_false_of_disallowed hm ha] at hi
      cases hi
    · rw [ho] at ho'
      cases ho'
    · rw [ho] at ho'
      cases ho'
    · exact ht
  rw [hbody hm h, hbody hm' h']
  cases i with
  | initEnc aAddr _ bAddr bLen | initDec aAddr _ bAddr bLen => exact initSession_congr _ aAddr bAddr bLen hfcode hmem hplatform
  | encrypt | decrypt | tag | verify => cases hi

/-! ### Data commands -/

theorem cryptData_memRead (hwf : Memory.wf s.mem = true) :
    (cryptData aAddr aLen bAddr s).memRead bAddr aLen = (s.counterCrypt (s.memRead aAddr aLen)).out :=
  State.memRead_of_written (cryptData_mem ..) hwf (by simp [State.counterCrypt])

theorem cryptData_sameOutside (hfits : (⟨bAddr, aLen⟩ : Region).Fits) :
    SameOutside ⟨bAddr, aLen⟩ s (cryptData aAddr aLen bAddr s) := fun _ ha =>
  State.readByte_of_written (r := ⟨bAddr, aLen⟩) (cryptData_mem ..) hfits (by simp [State.counterCrypt]) ha

/-- What `CRYPT()` does to registers, memory and platform (R134, R135, R140). -/
theorem cryptData_effect (hwf : Memory.wf s.mem = true) (hfits : (⟨bAddr, aLen⟩ : Region).Fits) :
    let inp := s.memRead aAddr aLen
    let r := counterCrypt s.E s.ctr s.xm inp
    let t := cryptData aAddr aLen bAddr s
    t.gh = (s.absorb inp).gh ∧ t.gbuf = (s.absorb inp).gbuf ∧ t.datalen = s.datalen + aLen ∧ t.ctr = r.ctr ∧ t.xm = r.xm ∧
      t.memRead bAddr aLen = r.out ∧ SameOutside ⟨bAddr, aLen⟩ s t ∧
      t.mode = s.mode ∧ t.fcode = s.fcode ∧ t.pt = s.pt ∧ t.tmask = s.tmask ∧ t.aadlen = s.aadlen ∧
      t.resp = some 0x00 ∧ SamePlatform s t := by
  refine ⟨cryptData_gh .., cryptData_gbuf .., cryptData_datalen .., cryptData_ctr .., cryptData_xm .., cryptData_memRead hwf,
    cryptData_sameOutside hfits, ?_⟩
  simp [SamePlatform, codeOk]

end

theorem output_mem_regionsOf_encrypt (a n b m : Word) : ⟨b, n⟩ ∈ regionsOf (.encrypt a n b m) := by
  simp [regionsOf, readRegions, writeRegions]

theorem input_mem_regionsOf_encrypt (a n b m : Word) : ⟨a, n⟩ ∈ regionsOf (.encrypt a n b m) := by
  simp [regionsOf, readRegions]

/-- Settles O45: a ready `ENCRYPT` in `ENC` is `CRYPT()`. -/
theorem encryptResult : Obligations.EncryptResult := by
  unfold Obligations.EncryptResult
  intro s aAddr aLen bAddr bLen hm hwf ho hr
  refine ⟨_, exec_encrypt_of_ready hm ho hr, ?_⟩
  rw [← hm]
  exact cryptData_effect hwf (hr.region_fits (output_mem_regionsOf_encrypt ..))

/-- Settles O46: a ready `DECRYPT` in `DEC` is `CRYPT()`. -/
theorem decryptResult : Obligations.DecryptResult := by
  unfold Obligations.DecryptResult
  intro s aAddr aLen bAddr bLen hm hwf ho hr
  refine ⟨_, exec_decrypt_of_ready hm ho hr, ?_⟩
  rw [← hm]
  exact cryptData_effect hwf (hr.region_fits (i := .decrypt aAddr aLen bAddr bLen) (output_mem_regionsOf_encrypt aAddr aLen bAddr bLen))

/-- Settles O47: both commands run `CRYPT()`, which does not look at `MODE`. -/
theorem decryptIsEncryptInTheOtherMode : Obligations.DecryptIsEncryptInTheOtherMode := by
  unfold Obligations.DecryptIsEncryptInTheOtherMode
  intro s aAddr aLen bAddr bLen hm ho hr
  exact ⟨_, exec_encrypt_of_ready hm ho hr, exec_decrypt_of_ready (bLen := bLen) rfl ho (hr.congr rfl)⟩

/-- R134, corner cases: with no input `CRYPT()` only responds. -/
theorem cryptData_zero {s : State} (h : s.gbuf.length < 16) (aAddr bAddr : Word) : cryptData aAddr 0 bAddr s = s.respond codeOk := by
  have habsorb : s.absorb [] = s := by
    simp [State.absorb, partialBlock, Nat.div_eq_of_lt h, absorbBlocks]
  simp only [cryptData, State.memRead_zero, habsorb, State.counterCrypt, counterCrypt_nil]
  simp [State.countData, State.advanceKeystream]

theorem hostReady_encrypt_zero (s : State) (aAddr bAddr bLen : Word) : HostReady (.encrypt aAddr 0 bAddr bLen) s := by
  simp [HostReady, s.refusalOf_eq_none_iff, s.regionRefusal_eq_none_iff, regionsOf, readRegions, writeRegions]

theorem inexactOverlap_zero (a b : Word) : inexactOverlap a b 0 = false := by simp [inexactOverlap]

/-- Settles O48: empty regions pass every check, and `CRYPT()` on no input is a response. -/
theorem emptyDataChangesNothing : Obligations.EmptyDataChangesNothing := by
  unfold Obligations.EmptyDataChangesNothing
  intro s aAddr bAddr bLen h
  have hr := hostReady_encrypt_zero s aAddr bAddr bLen
  have ho := inexactOverlap_zero aAddr bAddr
  refine ⟨fun hm => ?_, fun hm => ?_⟩
  · rw [exec_encrypt_of_ready hm ho hr, cryptData_zero h]
    rfl
  · rw [exec_decrypt_of_ready hm ho hr, cryptData_zero h]
    rfl

/-! ### Tag and verification -/

theorem toList_xorBlock (a b : Block) : (xorBlock a b).toList = xorBytes a.toList b.toList := by
  refine List.ext_getElem (by simp) fun i _ _ => ?_
  simp [xorBlock, xorBytes]

theorem State.ghashFlush_eq_ite (s : State) :
    s.ghashFlush = if s.gbuf.length = 0 then s.gh else mul s.pt (add s.gh (feOfBlock (pad16 s.gbuf))) := by
  simp only [State.ghashFlush, List.length_eq_zero_iff, absorbBlock]

theorem writeTag_memRead {s : State} (bAddr : Word) (hwf : Memory.wf s.mem = true) :
    (writeTag bAddr s).memRead bAddr 16 = s.tagValue.toList :=
  State.memRead_of_written (writeTag_mem ..) hwf Vector.length_toList

theorem writeTag_sameOutside {s : State} {bAddr : Word} (hfits : (⟨bAddr, 16⟩ : Region).Fits) :
    SameOutside ⟨bAddr, 16⟩ s (writeTag bAddr s) := fun _ ha =>
  State.readByte_of_written (r := ⟨bAddr, 16⟩) (writeTag_mem ..) hfits Vector.length_toList ha

/-- Settles O52: the body of `TAG` writes `TagValue()`, whose formula is written out with `ghash_flush()`. -/
theorem tagWritesTagValue : Obligations.TagWritesTagValue := by
  unfold Obligations.TagWritesTagValue
  intro s aAddr aLen bAddr bLen hm hwf hr flush y
  have hlive : s.mode.live = true := by
    obtain hm | hm := hm <;> rw [hm] <;> rfl
  have hfits : (⟨bAddr, 16⟩ : Region).Fits := hr.region_fits (r := ⟨bAddr, Config.tagLen⟩) (by simp [regionsOf, writeRegions])
  have htag : s.tagValue.toList = xorBytes (blockOfFe y).toList s.tmask.toList := by
    rw [State.tagValue, s.ghashFlush_eq_ite, toList_xorBlock]
  refine ⟨_, exec_tag_of_ready hlive hr, (writeTag_memRead bAddr hwf).trans htag, ?_, writeTag_sameOutside hfits, ?_⟩
  · simp [SameRegisters]
  · simp [SamePlatform, codeOk]

/-- With nothing to shift in, a step of `mul` on zero is zero, whatever the table holds. -/
theorem mulWord_zero (pt : ProductTable) (k : Nat) : mulWord pt k 0 FE.zero = FE.zero := by
  have hstep : mulStep pt FE.zero 0 = FE.zero := by
    rw [mulStep_eq_add, ProductTable.read_zero, shiftNibble_eq_double]
    simp
  induction k with
  | zero => rfl
  | succ k ih =>
    have hshift : (0 : Word) >>> 4 = 0 := by decide
    have hnibble : (0 : Word).extractLsb' 0 4 = 0 := by decide
    rw [mulWord, hshift, hnibble, hstep, ih]

theorem mul_zero (pt : ProductTable) : mul pt FE.zero = FE.zero := by
  rw [mul, show FE.zero.low = 0 from rfl, show FE.zero.high = 0 from rfl, mulWord_zero, mulWord_zero]

theorem blockOfFe_zero : blockOfFe FE.zero = zeroBlock := by decide

theorem tagValue_of_empty_session {s : State} (hgh : s.gh = FE.zero) (hgbuf : s.gbuf = []) (haad : s.aadlen = 0) (hdata : s.datalen = 0) :
    s.tagValue = s.tmask := by
  have hflush : s.ghashFlush = FE.zero := by rw [State.ghashFlush, if_pos hgbuf, hgh]
  have hlengths : (⟨FE.zero.low ^^^ (0 : Word) <<< 3, FE.zero.high ^^^ (0 : Word) <<< 3⟩ : FE) = FE.zero := by decide
  rw [State.tagValue]
  simp only [hflush, haad, hdata, hlengths, mul_zero, blockOfFe_zero]
  refine Vector.ext fun i hi => ?_
  simp [xorBlock, zeroBlock]

/-- `TagValue()` reads registers alone. -/
theorem State.tagValue_congr {s t : State} (h : SameRegisters s t) : t.tagValue = s.tagValue := by
  obtain ⟨-, -, hpt, hgh, hgbuf, -, htmask, -, haad, hdata⟩ := h
  simp only [State.tagValue, State.ghashFlush, hpt, hgh, hgbuf, htmask, haad, hdata]

theorem writeTag_sameRegisters (bAddr : Word) (s : State) : SameRegisters s (writeTag bAddr s) := by simp [SameRegisters]

theorem State.respond_sameRegisters (s : State) (code : Byte) : SameRegisters s (s.respond code) := SameRegisters.refl s

/-- An allowed command that can raise no operand fault, and whose body changes no register, changes no register. -/
theorem exec_sameRegisters {i : Instr} {s t : State} (hm : s.mode ≠ .faulted) (ha : allowedIn i s.mode = true)
    (ho : ∀ code, operandCheck i ≠ .fault code) (hbody : SameRegisters s (commandBody i s)) (h : exec i s = .next t) :
    SameRegisters s t := by
  obtain ⟨hf, -⟩ | ⟨-, code, -, ⟨ha', -⟩ | ⟨-, ho'⟩⟩ | ⟨-, -, code, -, rfl⟩ | ⟨-, -, -, -, rfl⟩ := exec_next_cases h
  · exact absurd hf hm
  · rw [ha] at ha'
    cases ha'
  · exact absurd ho' (ho code)
  · exact s.respond_sameRegisters code
  · exact hbody

theorem checkTagLength_ne_fault (aLen : Word) (code : Byte) : checkTagLength aLen ≠ .fault code := by
  unfold checkTagLength
  split <;> exact nofun

/-- Settles O53: neither command changes a register, and `TagValue()` reads nothing else. -/
theorem tagIsRepeatable : Obligations.TagIsRepeatable := by
  unfold Obligations.TagIsRepeatable
  refine ⟨fun s => tagValue_of_empty_session, fun s t aAddr aLen bAddr bLen hlive h => ?_, fun s t aAddr aLen bAddr bLen hm h => ?_⟩
  · have hregs := exec_sameRegisters (i := .tag aAddr aLen bAddr bLen) (ne_faulted_of_live hlive) hlive nofun (writeTag_sameRegisters bAddr s) h
    exact ⟨State.tagValue_congr hregs, hregs.1⟩
  · have hregs := exec_sameRegisters (i := .verify aAddr aLen bAddr bLen) (by simp [hm]) (decide_eq_true hm)
      (checkTagLength_ne_fault aLen) (s.respond_sameRegisters _) h
    exact ⟨State.tagValue_congr hregs, hregs.1⟩

/-- Settles O55: a ready `VERIFY` responds with the outcome of the comparison and does nothing else. -/
theorem verifyAnswers : Obligations.VerifyAnswers := by
  unfold Obligations.VerifyAnswers
  intro s aAddr bAddr bLen hm hr
  refine ⟨_, exec_verify_of_ready hm hr, fun heq => congrArg some (if_pos heq), fun hne => congrArg some (if_neg hne),
    s.respond_sameRegisters _, fun _ => rfl, SamePlatform.refl s⟩

/-! ### What a command reads -/

/-- Two canonical memories agree on a region after the same bytes were written to it. -/
theorem Memory.readByte_writeFrom_congr {m m' : Memory} (hwf : Memory.wf m = true) (hwf' : Memory.wf m' = true) {r : Region}
    {bs : List Byte} (hlen : bs.length = r.len.toNat) {a : Word} (ha : r.holds a = true) :
    Memory.readByte (Memory.writeFrom m r.addr bs) a.toNat = Memory.readByte (Memory.writeFrom m' r.addr bs) a.toNat := by
  obtain ⟨i, hi, rfl⟩ := Region.exists_offset_of_holds ha
  rw [Memory.readByte_writeFrom_getElem hwf (by omega) (hlen ▸ hi), Memory.readByte_writeFrom_getElem hwf' (by omega) (hlen ▸ hi)]

/-- The bytes a body writes to the region of `writeRegions`. -/
def commandOutput : Instr → State → List Byte
  | .initEnc _ _ _ _, _ => []
  | .initDec _ _ _ _, _ => []
  | .encrypt aAddr aLen _ _, s => (s.counterCrypt (s.memRead aAddr aLen)).out
  | .decrypt aAddr aLen _ _, s => (s.counterCrypt (s.memRead aAddr aLen)).out
  | .tag _ _ _ _, s => s.tagValue.toList
  | .verify _ _ _ _, _ => []

theorem commandBody_mem {i : Instr} {r : Region} (hr : r ∈ writeRegions i) (s : State) :
    (commandBody i s).mem = Memory.writeFrom s.mem r.addr (commandOutput i s) ∧ (commandOutput i s).length = r.len.toNat := by
  cases i with
  | initEnc | initDec | verify => cases hr
  | encrypt | decrypt =>
    obtain rfl := List.mem_singleton.1 hr
    simp [commandBody, commandOutput, State.counterCrypt]
  | tag =>
    obtain rfl := List.mem_singleton.1 hr
    simp [commandBody, commandOutput, Config.tagLen]

/-- States that differ in memory alone, and not in the regions the command reads. -/
theorem commandBody_congr_mem {i : Instr} {s : State} {m : Memory}
    (hread : ∀ r ∈ readRegions i, State.memRead { s with mem := m } r.addr r.len = s.memRead r.addr r.len) :
    SameRegisters (commandBody i s) (commandBody i { s with mem := m }) ∧
      (commandBody i { s with mem := m }).resp = (commandBody i s).resp ∧
      commandOutput i { s with mem := m } = commandOutput i s := by
  cases i with
  | initEnc aAddr _ bAddr bLen | initDec aAddr _ bAddr bLen =>
    have hnonce := hread ⟨aAddr, Config.nonceLen⟩ (by simp [readRegions])
    have haad := hread ⟨bAddr, bLen⟩ (by simp [readRegions])
    simp only at hnonce haad
    refine ⟨?_, by simp [commandBody], rfl⟩
    simp [SameRegisters, commandBody, hnonce, haad, State.E]
  | encrypt aAddr aLen | decrypt aAddr aLen =>
    have hinp := hread ⟨aAddr, aLen⟩ (by simp [readRegions])
    simp only at hinp
    refine ⟨?_, by simp [commandBody], by rw [commandOutput, hinp]; rfl⟩
    simp [SameRegisters, commandBody, hinp, State.counterCrypt, State.E]
  | tag => exact ⟨by simp [SameRegisters, commandBody], by simp [commandBody], rfl⟩
  | verify aAddr =>
    have hcand := hread ⟨aAddr, Config.tagLen⟩ (by simp [readRegions])
    simp only at hcand
    refine ⟨by simp [SameRegisters, commandBody], ?_, rfl⟩
    rw [commandBody, compareTag_resp, compareTag_resp, hcand]
    rfl

/-- Settles O21: a check that stops the command reads no memory; the body reads the regions of R44 and writes the same bytes in both memories. -/
theorem commandReadsOnlyItsRegions : Obligations.CommandReadsOnlyItsRegions := by
  unfold Obligations.CommandReadsOnlyItsRegions
  intro i s t m hagree hr hwf hwf' h
  obtain ⟨hf, rfl⟩ | ⟨hm, code, rfl, hwhy⟩ | ⟨hm, ha, code, ho, rfl⟩ | ⟨hm, ha, ho, -, rfl⟩ := exec_next_cases h
  · refine ⟨_, exec_of_faulted i hf, SameRegisters.refl s, rfl, fun r _ a _ hne => absurd hf hne⟩
  · refine ⟨State.raiseFault { s with mem := m } code, ?_, SameRegisters.refl (s.raiseFault code), rfl,
      fun r _ a _ hne => absurd rfl hne⟩
    obtain ⟨ha, rfl⟩ | ⟨ha, ho⟩ := hwhy
    · exact exec_of_disallowed_mode rfl hm ha
    · exact exec_of_operand_fault hm ha ho
  · refine ⟨_, exec_of_operand_answer hm ha ho, SameRegisters.refl s, rfl, fun r hr' => ?_⟩
    obtain ⟨-, a, n, b, m, rfl⟩ := operandCheck_answer_cases ho
    cases hr'
  · have hread : ∀ r ∈ readRegions i, State.memRead { s with mem := m } r.addr r.len = s.memRead r.addr r.len := fun r hr' =>
      State.memRead_congr fun j hj =>
        hagree r hr' _ ((hr.region_fits (mem_regionsOf_of_mem_readRegions hr')).holds_offset hj)
    obtain ⟨hregs, hresp, hout⟩ := commandBody_congr_mem hread
    refine ⟨_, exec_of_ready hm ha ho (hr.congr rfl), hregs, hresp, fun r hr' a hin _ => ?_⟩
    obtain ⟨hmem, hlen⟩ := commandBody_mem hr' s
    obtain ⟨hmem', -⟩ := commandBody_mem hr' { s with mem := m }
    rw [State.readByte, State.readByte, hmem, hmem', hout]
    exact Memory.readByte_writeFrom_congr hwf' hwf hlen hin

end Sys2Proof.Machine

/-!
R13, R23, R27: the invariant `State.Inv`, kept by responses, faults and bodies, hence by commands, hence by every step.
-/

namespace Sys2Proof.Machine

/-! ### Operations -/

theorem State.Inv.respond {s : State} (h : s.Inv) {code : Byte} (hcode : code ∈ responseCodes) : (s.respond code).Inv :=
  { h with response := fun _ hresp => Option.some.inj hresp ▸ hcode }

theorem State.Inv.memWrite {s : State} (h : s.Inv) (addr : Word) (bs : List Byte) : (s.memWrite addr bs).Inv :=
  { h with memory := Memory.wf_writeFrom _ _ _ h.memory }

theorem State.Inv.answerLatched {s : State} (h : s.Inv) (hm : s.mode = .faulted) : s.answerLatched.Inv :=
  h.respond (List.mem_cons_of_mem _ (List.mem_cons_of_mem _ (h.fcodeLatched hm)))

theorem State.Inv.raiseFault {s : State} (h : s.Inv) {code : Byte} (hcode : code ∈ faultCodes) : (s.raiseFault code).Inv where
  memory := h.memory
  fcodeClear := fun hm => absurd rfl hm
  fcodeLatched := fun _ => hcode
  response := fun _ hresp => Option.some.inj hresp ▸ List.mem_cons_of_mem _ (List.mem_cons_of_mem _ hcode)
  gbufShort := h.gbufShort
  xmShort := h.xmShort
  gbufCount := nofun
  xmCount := nofun
  table := nofun

theorem State.Inv.illegalCommand {s : State} (h : s.Inv) : (illegalCommand s).Inv := by
  by_cases hm : s.mode = .faulted
  · rw [illegalCommand_of_faulted hm]
    exact h.answerLatched hm
  · rw [illegalCommand_of_not_faulted hm]
    exact h.raiseFault (by decide)

/-- Asserting reset clears what the invariant speaks of, on any canonical memory. -/
theorem State.assertReset_inv {s : State} (h : Memory.wf s.mem = true) : s.assertReset.Inv where
  memory := h
  fcodeClear := fun _ => rfl
  fcodeLatched := nofun
  response := nofun
  gbufShort := by simp
  xmShort := by simp
  gbufCount := nofun
  xmCount := nofun
  table := nofun

/-- Where no session is live nothing is claimed of the cipher; where one is, its cipher stays. -/
theorem State.Inv.connect {s : State} (h : s.Inv) {port : CipherPort} (hmay : s.mode.live = false ∨ port = s.cipher) :
    State.Inv { s with cipher := port } := by
  obtain hidle | rfl := hmay
  · exact { h with table := fun hlive => absurd hlive (by simp [hidle]) }
  · exact h

/-- A live session about to be replaced: without it, nothing is claimed of the cipher. -/
theorem State.Inv.discardSession {s : State} (h : s.Inv) (hm : s.mode ≠ .faulted) (port : CipherPort) :
    State.Inv { s with mode := .idle, cipher := port } :=
  { h with
    fcodeClear := fun _ => h.fcodeClear hm
    fcodeLatched := nofun
    gbufCount := nofun
    xmCount := nofun
    table := nofun }

/-! ### Bodies -/

/-- R132: construction establishes the registers' invariant, whatever they held. -/
theorem initSession_inv {s : State} {role : Mode} (hmem : Memory.wf s.mem = true) (hfcode : s.fcode = 0x00) (hrole : role ≠ .faulted)
    (aAddr bAddr bLen : Word) : (initSession role aAddr bAddr bLen s).Inv where
  memory := by simpa using hmem
  fcodeClear := fun _ => by simpa using hfcode
  fcodeLatched := fun hm => absurd hm (by simpa using hrole)
  response := fun code hresp => by
    obtain rfl : codeOk = code := by simpa using hresp
    decide
  gbufShort := by simp
  xmShort := by simp
  gbufCount := fun _ => by simp
  xmCount := fun _ => by simp
  table := fun _ k => by rw [initSession_pt, initSession_E, buildTable_read_bitrev4]

/-- R134: `GLEN` grows and `XLEN` shrinks by the length of the input, modulo sixteen. -/
theorem State.Inv.cryptData {s : State} (h : s.Inv) (hlive : s.mode.live = true) (aAddr aLen bAddr : Word) :
    (cryptData aAddr aLen bAddr s).Inv where
  memory := by
    rw [cryptData_mem]
    exact Memory.wf_writeFrom _ _ _ h.memory
  fcodeClear := by simpa using h.fcodeClear
  fcodeLatched := by simpa using h.fcodeLatched
  response := fun code hresp => by
    obtain rfl : codeOk = code := by simpa using hresp
    decide
  gbufShort := s.absorb_gbuf_length_lt (s.memRead aAddr aLen)
  xmShort := by
    rw [cryptData_xm]
    exact counterCrypt_xm_length_lt s.E s.ctr h.xmShort _
  gbufCount := fun _ => by
    have hcount := h.gbufCount hlive
    rw [cryptData_gbuf, State.absorb_gbuf, partialBlock_length, List.length_append, State.memRead_length, cryptData_datalen,
      BitVec.toNat_add]
    omega
  xmCount := fun _ => by
    have hcount := h.xmCount hlive
    have hmod := counterCrypt_xm_length_mod s.E s.ctr s.xm (s.memRead aAddr aLen)
    have hlt := counterCrypt_xm_length_lt s.E s.ctr h.xmShort (s.memRead aAddr aLen)
    rw [State.memRead_length] at hmod
    rw [cryptData_xm, State.counterCrypt, cryptData_datalen, BitVec.toNat_add]
    omega
  table := by simpa using h.table

theorem State.Inv.writeTag {s : State} (h : s.Inv) (bAddr : Word) : (writeTag bAddr s).Inv :=
  (h.memWrite bAddr s.tagValue.toList).respond (by decide)

theorem State.Inv.compareTag {s : State} (h : s.Inv) (aAddr : Word) : (compareTag aAddr s).Inv := by
  refine h.respond ?_
  split <;> decide

theorem State.Inv.commandBody {i : Instr} {s : State} (h : s.Inv) (hm : s.mode ≠ .faulted) (ha : allowedIn i s.mode = true) :
    (commandBody i s).Inv := by
  have hlive : ∀ {m : Mode}, m.live = true → decide (s.mode = m) = true → s.mode.live = true := by
    intro m hl hd
    rw [of_decide_eq_true hd, hl]
  cases i with
  | initEnc | initDec => exact initSession_inv h.memory (h.fcodeClear hm) (by decide) ..
  | encrypt | decrypt => exact h.cryptData (hlive rfl ha) ..
  | tag => exact h.writeTag _
  | verify => exact h.compareTag _

/-! ### Commands and steps -/

theorem State.Inv.exec {i : Instr} {s t : State} (h : s.Inv) (he : exec i s = .next t) : t.Inv := by
  obtain ⟨hm, rfl⟩ | ⟨-, code, rfl, hwhy⟩ | ⟨-, -, code, ho, rfl⟩ | ⟨hm, ha, -, -, rfl⟩ := exec_next_cases he
  · exact h.answerLatched hm
  · exact h.raiseFault (code_mem_faultCodes hwhy)
  · obtain ⟨rfl, -⟩ := operandCheck_answer_cases ho
    exact h.respond (by decide)
  · exact h.commandBody hm ha

theorem State.Inv.runDescriptor {d : Descriptor} {s t : State} (h : s.Inv) (hd : runDescriptor d s = .next t) : t.Inv := by
  unfold Machine.runDescriptor at hd
  split at hd
  · exact h.exec hd
  · cases hd
    exact h.illegalCommand

/-- An `INIT_*` needs the invariant only of what it keeps: it runs on any cipher, whatever session was live. -/
theorem exec_init_inv {i : Instr} {s t : State} (hi : isInit i = true) (hm : s.mode ≠ .faulted)
    (h : State.Inv { s with mode := .idle }) (he : exec i s = .next t) : t.Inv := by
  obtain ⟨hf, -⟩ | ⟨-, code, rfl, hwhy⟩ | ⟨-, -, code, ho, rfl⟩ | ⟨-, -, -, -, rfl⟩ := exec_next_cases he
  · exact absurd hf hm
  · exact h.raiseFault (code_mem_faultCodes hwhy)
  · obtain ⟨-, a, n, b, m, rfl⟩ := operandCheck_answer_cases ho
    cases hi
  · cases i with
    | initEnc | initDec => exact initSession_inv h.memory (h.fcodeClear (by simp)) (by decide) ..
    | encrypt | decrypt | tag | verify => cases hi

theorem State.Inv.rekeyMove {port : CipherPort} {d : Descriptor} {s t : State} (h : s.Inv) (hr : rekeyMove port d s = .next t) :
    t.Inv := by
  obtain ⟨hmay, heq⟩ | ⟨-, -, -, heq⟩ := rekeyMove_cases port d s <;> rw [heq] at hr
  · by_cases hkeep : s.mode.live = false ∨ port = s.cipher
    · exact (h.connect hkeep).runDescriptor hr
    · obtain ⟨i, hd, hi⟩ := (startsSession_iff d).1 (by tauto)
      have hm : s.mode ≠ .faulted := by
        intro hm
        simp [hm, Mode.live] at hkeep
      rw [runDescriptor_of_decode_ok hd] at hr
      exact exec_init_inv (s := { s with cipher := port }) hi hm (h.discardSession hm port) hr
  · cases hr

theorem State.Inv.resetDuringCommand {d : Descriptor} {s t : State} (h : s.Inv) (hr : resetDuringCommand d s = .next t) : t.Inv := by
  unfold Machine.resetDuringCommand at hr
  split at hr
  · cases hr
  · cases hr
    exact State.assertReset_inv (State.abandonOutput_wf _ s h.memory)

/-- Settles O60: by cases on the move, each of them an operation that keeps the invariant. -/
theorem stepKeepsInvariant : Obligations.StepKeepsInvariant := by
  unfold Obligations.StepKeepsInvariant
  intro s t h hstep
  have htaken : ∀ rest, State.Inv { s with inbox := rest } := fun _ => { h with }
  obtain ⟨-, hs⟩ | ⟨d, rest, -, hs⟩ | ⟨addr, v, rest, -, hs⟩ | ⟨rest, -, hs⟩ | ⟨d, rest, -, hs⟩ | ⟨port, rest, -, hs⟩ |
    ⟨port, d, rest, -, hs⟩ := step_cases s <;> rw [hs] at hstep
  · cases hstep
    exact h
  · exact (htaken rest).runDescriptor hstep
  · cases hstep
    exact (htaken rest).memWrite addr [v]
  · cases hstep
    exact State.assertReset_inv h.memory
  · exact (htaken rest).resetDuringCommand hstep
  · obtain ⟨hmay, hc⟩ | ⟨-, -, hc⟩ := connectCipherMove_cases port { s with inbox := rest } <;> rw [hc] at hstep <;> cases hstep
    exact (htaken rest).connect hmay
  · exact (htaken rest).rekeyMove hstep

/-- Settles O59: no session is live, nothing is listed in memory and nothing waits. -/
theorem resetMeetsInvariant : Obligations.ResetMeetsInvariant where
  memory := reset_mem_wf
  fcodeClear := fun _ => rfl
  fcodeLatched := nofun
  response := nofun
  gbufShort := by decide
  xmShort := by decide
  gbufCount := nofun
  xmCount := nofun
  table := nofun

end Sys2Proof.Machine

/-!
R28, R29, R34: a session's registers as functions of its nonce, AAD and data: at construction, over a data command, and over every other step that
is no reset, `INIT_*` or fault.
-/

namespace Sys2Proof.Machine

/-! ### The keystream by position -/

section

variable (E : Block → Block) (j0 : Block)

/-- `CTR` once `n` bytes of keystream are used up (R28). -/
def counterAt (n : Nat) : Block := inc32^[1 + (n + 15) / 16] j0

/-- `XM` once `n` bytes of keystream are used up (R34). -/
def leftoverAt (n : Nat) : List Byte := keystream E j0 n (16 * ((n + 15) / 16))

theorem keystream_self (n : Nat) : keystream E j0 n n = [] := by simp [keystream]

@[simp] theorem keystream_length (lo hi : Nat) : (keystream E j0 lo hi).length = hi - lo := by simp [keystream]

theorem keystream_of_lt {lo hi : Nat} (h : lo < hi) : keystream E j0 lo hi = keystreamByte E j0 lo :: keystream E j0 (lo + 1) hi := by
  obtain ⟨n, rfl⟩ : ∃ n, hi = lo + 1 + n := ⟨hi - (lo + 1), by omega⟩
  rw [keystream, keystream, show lo + 1 + n - lo = n + 1 by omega, show lo + 1 + n - (lo + 1) = n by omega, List.range_succ_eq_map,
    List.map_cons, List.map_map]
  refine congrArg₂ _ rfl (List.map_congr_left fun k _ => ?_)
  rw [Function.comp, Nat.add_assoc, Nat.add_comm 1 k]

/-- Sixteen bytes from a block boundary on are one enciphered counter block. -/
theorem keystream_block (q : Nat) : keystream E j0 (16 * q) (16 * q + 16) = (E (inc32^[q + 1] j0)).toList := by
  refine List.ext_getElem (by simp) fun i hi _ => ?_
  rw [keystream_length] at hi
  simp [keystream, keystreamByte, show (16 * q + i) / 16 = q by omega, Nat.mod_eq_of_lt (show i < 16 by omega)]

/-- One input byte takes the keystream registers from one position to the next. -/
theorem counterCrypt_at_cons (n : Nat) (b : Byte) (inp : List Byte) :
    counterCrypt E (counterAt j0 n) (leftoverAt E j0 n) (b :: inp) =
      (counterCrypt E (counterAt j0 (n + 1)) (leftoverAt E j0 (n + 1)) inp).push (keystreamByte E j0 n ^^^ b) := by
  obtain hmid | ⟨q, rfl⟩ : n < 16 * ((n + 15) / 16) ∨ ∃ q, n = 16 * q := by
    by_cases h : n % 16 = 0
    · exact .inr ⟨n / 16, by omega⟩
    · exact .inl (by omega)
  · have hblocks : (n + 1 + 15) / 16 = (n + 15) / 16 := by omega
    rw [leftoverAt, keystream_of_lt E j0 hmid, counterCrypt_leftover, counterAt, counterAt, leftoverAt, hblocks]
  · have hblocks : (16 * q + 15) / 16 = q := by omega
    have hnext : (16 * q + 1 + 15) / 16 = q + 1 := by omega
    have hempty : leftoverAt E j0 (16 * q) = [] := by rw [leftoverAt, hblocks, keystream_self]
    have hmask : (E (counterAt j0 (16 * q))).toList = keystreamByte E j0 (16 * q) :: leftoverAt E j0 (16 * q + 1) := by
      rw [counterAt, hblocks, Nat.add_comm 1 q, ← keystream_block, keystream_of_lt E j0 (by omega), leftoverAt, hnext]
      rfl
    have hctr : inc32 (counterAt j0 (16 * q)) = counterAt j0 (16 * q + 1) := by
      rw [counterAt, counterAt, hblocks, hnext, ← Function.iterate_succ_apply' inc32]
      rfl
    rw [hempty, counterCrypt_refill E _ (List.cons_ne_nil b inp), hmask, counterCrypt_leftover, hctr]

/-- R34: `counter_crypt` at position `n` is the input XOR the keystream from `n` on, and ends at the position after the input. -/
theorem counterCrypt_at (n : Nat) (inp : List Byte) : counterCrypt E (counterAt j0 n) (leftoverAt E j0 n) inp =
    ⟨xorBytes inp (keystream E j0 n (n + inp.length)), counterAt j0 (n + inp.length), leftoverAt E j0 (n + inp.length)⟩ := by
  induction inp generalizing n with
  | nil => simp
  | cons b inp ih =>
    have hpos : n + (b :: inp).length = n + 1 + inp.length := by rw [List.length_cons]; omega
    rw [counterCrypt_at_cons, ih, hpos, keystream_of_lt E j0 (show n < n + 1 + inp.length by omega)]
    simp [Crypted.push, xorBytes, BitVec.xor_comm b]

end

theorem xorBytes_xorBytes_cancel {x k : List Byte} (h : x.length ≤ k.length) : xorBytes (xorBytes x k) k = x := by
  refine List.ext_getElem (by simpa using h) fun i _ _ => ?_
  simp [xorBytes]

/-! ### Full blocks of a stream -/

/-- After whole blocks `a`, the full blocks of `a ++ x` are `a` and those of `x`. -/
theorem take_fullBlocks_append {a : List Byte} {q : Nat} (ha : a.length = 16 * q) (x : List Byte) :
    (a ++ x).take (16 * ((a ++ x).length / 16)) = a ++ x.take (16 * (x.length / 16)) := by
  rw [List.length_append, ha, show 16 * ((16 * q + x.length) / 16) = a.length + 16 * (x.length / 16) by omega, List.take_length_add_append]

theorem partialBlock_append {a : List Byte} {q : Nat} (ha : a.length = 16 * q) (x : List Byte) :
    partialBlock (a ++ x) = partialBlock x := by
  rw [partialBlock, List.length_append, ha, show 16 * ((16 * q + x.length) / 16) = a.length + 16 * (x.length / 16) by omega,
    List.drop_length_add_append, partialBlock]

theorem length_take_fullBlocks (d : List Byte) : (d.take (16 * (d.length / 16))).length = 16 * (d.length / 16) :=
  List.length_take_of_le (Nat.mul_div_le _ _)

/-! ### Construction -/

/-- R28, R29, R34 at construction. -/
theorem initSession_sessionOf (s : State) {role : Mode} (hrole : role.live = true) (aAddr bAddr bLen : Word) :
    SessionOf (initSession role aAddr bAddr bLen s) (pad16 (s.memRead aAddr 16)) (s.memRead bAddr bLen) [] := by
  have htable : s.loadTable.pt = hashTable s.E := by
    rw [State.loadTable_pt, hashTable, buildTable_congr]
  have hpt : (initSession role aAddr bAddr bLen s).pt = hashTable s.E := by
    rw [← htable, initSession_pt, State.loadTable_pt]
  exact {
    live := by simpa using hrole
    table := by rw [hpt, initSession_E]
    ghash := by
      rw [initSession_gh, hpt, htable]
      rfl
    gbuf := by simp
    ctr := by
      rw [initSession_ctr, htable, initSession_E]
      rfl
    tmask := by
      rw [initSession_tmask, htable, initSession_E]
      rfl
    xm := by
      rw [initSession_xm]
      exact (keystream_self ..).symm
    aadlen := by simp
    datalen := by simp }

/-- Settles O44: the closed forms with no data are what `INIT(role)` writes. -/
theorem initStartsTrackedSession : Obligations.InitStartsTrackedSession := by
  unfold Obligations.InitStartsTrackedSession
  intro s aAddr bAddr bLen hm hr
  exact ⟨⟨_, exec_initEnc_of_ready hm hr, initSession_sessionOf s rfl ..⟩,
    ⟨_, exec_initDec_of_ready hm hr, initSession_sessionOf s rfl ..⟩⟩

/-! ### Data commands -/

section

variable {s : State} {nonce : Block} {aad data : List Byte}

theorem SessionOf.counterCrypt_eq (h : SessionOf s nonce aad data) (inp : List Byte) : s.counterCrypt inp =
    ⟨xorBytes inp (keystream s.E (initialCounter s.E nonce) data.length (data.length + inp.length)),
      counterAt (initialCounter s.E nonce) (data.length + inp.length),
      leftoverAt s.E (initialCounter s.E nonce) (data.length + inp.length)⟩ := by
  rw [State.counterCrypt, h.ctr, h.xm]
  exact counterCrypt_at s.E (initialCounter s.E nonce) data.length inp

/-- R29: the data are whole blocks in `GH`, then the bytes that wait in `GBUF`. -/
theorem SessionOf.append_eq (h : SessionOf s nonce aad data) (inp : List Byte) :
    data ++ inp = data.take (16 * (data.length / 16)) ++ (s.gbuf ++ inp) := by
  rw [h.gbuf, ← List.append_assoc, List.take_append_drop]

/-- R101 in a session: `GH` and `GBUF` after `absorb` are those of the longer data. -/
theorem SessionOf.absorb_gh (h : SessionOf s nonce aad data) (inp : List Byte) : (s.absorb inp).gh =
    update s.pt (update s.pt FE.zero aad) ((data ++ inp).take (16 * ((data ++ inp).length / 16))) := by
  have hfull := length_take_fullBlocks data
  rw [State.absorb_gh_eq_update, h.ghash, h.append_eq, take_fullBlocks_append hfull, update_append _ _ hfull]

theorem SessionOf.absorb_gbuf (h : SessionOf s nonce aad data) (inp : List Byte) : (s.absorb inp).gbuf = partialBlock (data ++ inp) := by
  rw [State.absorb_gbuf, h.append_eq, partialBlock_append (length_take_fullBlocks data)]

theorem SessionOf.cryptData (h : SessionOf s nonce aad data) (aAddr aLen bAddr : Word) :
    SessionOf (cryptData aAddr aLen bAddr s) nonce aad (data ++ s.memRead aAddr aLen) := by
  have hcrypt := h.counterCrypt_eq (s.memRead aAddr aLen)
  exact {
    live := by simpa using h.live
    table := by simpa using h.table
    ghash := by
      rw [cryptData_gh, cryptData_pt]
      exact h.absorb_gh _
    gbuf := by
      rw [cryptData_gbuf]
      exact h.absorb_gbuf _
    ctr := by
      rw [cryptData_ctr, hcrypt, cryptData_E, List.length_append]
      rfl
    tmask := by simpa using h.tmask
    xm := by
      rw [cryptData_xm, hcrypt, cryptData_E, List.length_append]
      rfl
    aadlen := by simpa using h.aadlen
    datalen := by
      rw [cryptData_datalen, h.datalen, List.length_append, State.memRead_length, BitVec.ofNat_add, BitVec.ofNat_toNat,
        BitVec.setWidth_eq] }

theorem SessionOf.cryptData_memRead (h : SessionOf s nonce aad data) (hwf : Memory.wf s.mem = true) (aAddr aLen bAddr : Word) :
    (Machine.cryptData aAddr aLen bAddr s).memRead bAddr aLen = xorBytes (s.memRead aAddr aLen)
      (keystream s.E (initialCounter s.E nonce) data.length (data.length + (s.memRead aAddr aLen).length)) := by
  rw [Machine.cryptData_memRead hwf, h.counterCrypt_eq]

/-! ### Every other step -/

/-- A session is its registers and its cipher. -/
theorem SessionOf.congr {t : State} (h : SessionOf s nonce aad data) (hregs : SameRegisters s t) (hcipher : t.cipher = s.cipher) :
    SessionOf t nonce aad data := by
  obtain ⟨hmode, -, hpt, hgh, hgbuf, hctr, htmask, hxm, haad, hdata⟩ := hregs
  have hE : t.E = s.E := by rw [State.E, hcipher, State.E]
  exact {
    live := by rw [hmode, h.live]
    table := by rw [hpt, hE, h.table]
    ghash := by rw [hgh, hpt, h.ghash]
    gbuf := by rw [hgbuf, h.gbuf]
    ctr := by rw [hctr, hE, h.ctr]
    tmask := by rw [htmask, hE, h.tmask]
    xm := by rw [hxm, hE, h.xm]
    aadlen := by rw [haad, h.aadlen]
    datalen := by rw [hdata, h.datalen] }

theorem SessionOf.extends_of_sameRegisters {t : State} (h : SessionOf s nonce aad data) (hregs : SameRegisters s t)
    (hcipher : t.cipher = s.cipher) : ∃ more, SessionOf t nonce aad (data ++ more) :=
  ⟨[], by simpa using h.congr hregs hcipher⟩

theorem SessionOf.commandBody {i : Instr} (h : SessionOf s nonce aad data) (hi : isInit i = false) :
    ∃ more, SessionOf (commandBody i s) nonce aad (data ++ more) := by
  cases i with
  | initEnc | initDec => cases hi
  | encrypt | decrypt => exact ⟨_, h.cryptData ..⟩
  | tag => exact h.extends_of_sameRegisters (writeTag_sameRegisters _ s) (writeTag_cipher ..)
  | verify => exact h.extends_of_sameRegisters (s.respond_sameRegisters _) rfl

theorem SessionOf.exec {i : Instr} {t : State} (h : SessionOf s nonce aad data) (hi : isInit i = false) (he : exec i s = .next t)
    (ht : t.mode ≠ .faulted) : ∃ more, SessionOf t nonce aad (data ++ more) := by
  obtain ⟨-, -, ⟨-, -, rfl⟩ | ⟨-, rfl⟩⟩ := exec_unfaulted_cases he ht
  · exact h.commandBody hi
  · exact h.extends_of_sameRegisters (s.respond_sameRegisters _) rfl

theorem SessionOf.runDescriptor {d : Descriptor} {t : State} (h : SessionOf s nonce aad data)
    (hd : ∀ i, decode d = .ok i → isInit i = false) (hrun : runDescriptor d s = .next t) (ht : t.mode ≠ .faulted) :
    ∃ more, SessionOf t nonce aad (data ++ more) := by
  unfold Machine.runDescriptor at hrun
  split at hrun
  · next i hi => exact h.exec (hd i hi) hrun ht
  · cases hrun
    unfold illegalCommand at ht
    split at ht
    · next hm => exact absurd hm ht
    · exact absurd rfl ht

theorem SessionOf.step {t : State} (h : SessionOf s nonce aad data) (hstep : step s = .next t) (ht : t.mode ≠ .faulted)
    (hmove : ∀ move rest, s.inbox = move :: rest → move.assertsReset = false ∧
      ∀ d i, move.descriptor = some d → decode d = .ok i → isInit i = false) :
    ∃ more, SessionOf t nonce aad (data ++ more) := by
  obtain ⟨-, hs⟩ | ⟨d, rest, hi, hs⟩ | ⟨addr, v, rest, hi, hs⟩ | ⟨rest, hi, hs⟩ | ⟨d, rest, hi, hs⟩ | ⟨port, rest, hi, hs⟩ |
    ⟨port, d, rest, hi, hs⟩ := step_cases s <;> rw [hs] at hstep
  · cases hstep
    exact h.extends_of_sameRegisters (SameRegisters.refl s) rfl
  · obtain ⟨-, hd⟩ := hmove _ _ hi
    have htaken : SessionOf { s with inbox := rest } nonce aad data := { h with }
    exact htaken.runDescriptor (fun i => hd d i rfl) hstep ht
  · cases hstep
    exact h.extends_of_sameRegisters (SameRegisters.refl s) rfl
  · obtain ⟨hreset, -⟩ := hmove _ _ hi
    cases hreset
  · obtain ⟨hreset, -⟩ := hmove _ _ hi
    cases hreset
  · obtain ⟨hmay, hc⟩ | ⟨-, -, hc⟩ := connectCipherMove_cases port { s with inbox := rest } <;> rw [hc] at hstep <;> cases hstep
    obtain hidle | hport := hmay
    · exact absurd (h.live.symm.trans hidle) (by decide)
    · exact h.extends_of_sameRegisters (SameRegisters.refl s) hport
  · obtain ⟨-, hd⟩ := hmove _ _ hi
    obtain ⟨hmay, hr⟩ | ⟨-, -, -, hr⟩ := rekeyMove_cases port d { s with inbox := rest } <;> rw [hr] at hstep
    · obtain hidle | hport | hstart := hmay
      · exact absurd (h.live.symm.trans hidle) (by decide)
      · have htaken : SessionOf { s with inbox := rest, cipher := port } nonce aad data :=
          h.congr (SameRegisters.refl s) hport
        exact htaken.runDescriptor (fun i => hd d i rfl) hstep ht
      · obtain ⟨i, hi', hinit⟩ := (startsSession_iff d).1 hstart
        rw [hd d i rfl hi'] at hinit
        cases hinit
    · cases hstep

end

/-- Settles O49: by cases on the move, with the keystream by position for the data commands. -/
theorem dataExtendsTrackedSession : Obligations.DataExtendsTrackedSession := by
  unfold Obligations.DataExtendsTrackedSession
  refine ⟨fun s t nonce aad data h hstep ht hmove => h.step hstep ht hmove, ?_⟩
  intro s nonce aad data aAddr aLen bAddr bLen h hwf ho hr
  exact ⟨fun hm => ⟨_, exec_encrypt_of_ready hm ho hr, h.cryptData .., h.cryptData_memRead hwf ..⟩,
    fun hm => ⟨_, exec_decrypt_of_ready hm ho hr, h.cryptData .., h.cryptData_memRead hwf ..⟩⟩

/-- Settles O51: both sessions XOR with the same keystream bytes, the second on the output of the first. -/
theorem decryptUndoesEncrypt : Obligations.DecryptUndoesEncrypt := by
  unfold Obligations.DecryptUndoesEncrypt
  intro s s' t nonce aad aad' data data' a b c d n x y h h' hm hm' hcipher hlen hwf hwf' ho ho' hr hr' he hinput
  rw [exec_encrypt_of_ready hm ho hr] at he
  cases he
  have hE : s'.E = s.E := by rw [State.E, hcipher, State.E]
  refine ⟨_, exec_decrypt_of_ready (bLen := y) hm' ho' hr', ?_⟩
  rw [h'.cryptData_memRead hwf', hinput, h.cryptData_memRead hwf, hE, hlen]
  have hsame : (s.memRead a n).length = (xorBytes (s.memRead a n) (keystream s.E (initialCounter s.E nonce) data.length
      (data.length + (s.memRead a n).length))).length := by simp
  rw [← hsame, xorBytes_xorBytes_cancel (by simp)]

end Sys2Proof.Machine

/-!
R141: two data commands on consecutive chunks are one command on both, hence any number of them are.
-/

namespace Sys2Proof.Machine

/-! ### Two chunks of a stream -/

section

variable (s : State)

/-- R101: `absorb` of two chunks one after the other. -/
theorem State.absorb_absorb (x y : List Byte) :
    ((s.absorb x).absorb y).gh = (s.absorb (x ++ y)).gh ∧ ((s.absorb x).absorb y).gbuf = (s.absorb (x ++ y)).gbuf := by
  have hfull := length_take_fullBlocks (s.gbuf ++ x)
  have hstream : s.gbuf ++ (x ++ y) = (s.gbuf ++ x).take (16 * ((s.gbuf ++ x).length / 16)) ++ ((s.absorb x).gbuf ++ y) := by
    rw [State.absorb_gbuf, partialBlock, ← List.append_assoc, ← List.append_assoc, List.take_append_drop]
  constructor
  · rw [State.absorb_gh_eq_update, State.absorb_gh_eq_update s x, State.absorb_gh_eq_update s (x ++ y), State.absorb_pt, hstream,
      take_fullBlocks_append hfull, update_append _ _ hfull]
  · rw [State.absorb_gbuf, State.absorb_gbuf s (x ++ y), hstream, partialBlock_append hfull]

/-- R41: a region read in two parts. -/
theorem State.memRead_add {n m : Word} (h : n.toNat + m.toNat < 2 ^ 64) (a : Word) :
    s.memRead a (n + m) = s.memRead a n ++ s.memRead (a + n) m := by
  have hsum : (n + m).toNat = n.toNat + m.toNat := by bv_omega
  rw [State.memRead, hsum, List.range_add, List.map_append, List.map_map]
  refine congrArg₂ _ rfl (List.map_congr_left fun i _ => ?_)
  rw [Function.comp, BitVec.ofNat_add, BitVec.ofNat_toNat, BitVec.setWidth_eq, BitVec.add_assoc]

/-- Writing the output of a chunk leaves the input of the chunks after it. -/
theorem cryptData_memRead_of_disjoint {a b n x m : Word} (h : ∀ i < m.toNat, ∀ j < n.toNat, x + BitVec.ofNat 64 i ≠ b + BitVec.ofNat 64 j) :
    (cryptData a n b s).memRead x m = s.memRead x m := by
  refine State.memRead_congr fun i hi => ?_
  rw [State.readByte, cryptData_mem]
  refine Memory.readByte_writeFrom_other _ _ _ _ fun j hj => h i hi j ?_
  simpa [State.counterCrypt] using hj

/-- R141 for two chunks. -/
theorem cryptData_cryptData {a b n m : Word} (hsum : n.toNat + m.toNat < 2 ^ 64)
    (hdisjoint : ∀ i < m.toNat, ∀ j < n.toNat, a + n + BitVec.ofNat 64 i ≠ b + BitVec.ofNat 64 j) :
    cryptData (a + n) m (b + n) (cryptData a n b s) = cryptData a (n + m) b s := by
  have hread := cryptData_memRead_of_disjoint s (a := a) hdisjoint
  have hinp := s.memRead_add hsum a
  have hcrypt : s.counterCrypt (s.memRead a (n + m)) =
      ((cryptData a n b s).counterCrypt (s.memRead (a + n) m)).after (s.counterCrypt (s.memRead a n)).out := by
    rw [hinp, State.counterCrypt, counterCrypt_append]
    simp only [State.counterCrypt, cryptData_E, cryptData_ctr, cryptData_xm]
  obtain ⟨hgh, hgbuf⟩ := s.absorb_absorb (s.memRead a n) (s.memRead (a + n) m)
  have hlen : BitVec.ofNat 64 (s.counterCrypt (s.memRead a n)).out.length = n := by simp [State.counterCrypt]
  have hgh' : (cryptData (a + n) m (b + n) (cryptData a n b s)).gh = (cryptData a (n + m) b s).gh := by
    rw [cryptData_gh, cryptData_gh, hread, hinp, ← hgh]
    simp
  have hgbuf' : (cryptData (a + n) m (b + n) (cryptData a n b s)).gbuf = (cryptData a (n + m) b s).gbuf := by
    rw [cryptData_gbuf, cryptData_gbuf, hread, hinp, ← hgbuf]
    simp
  have hctr : (cryptData (a + n) m (b + n) (cryptData a n b s)).ctr = (cryptData a (n + m) b s).ctr := by
    rw [cryptData_ctr, cryptData_ctr, hread, hcrypt]
    rfl
  have hxm : (cryptData (a + n) m (b + n) (cryptData a n b s)).xm = (cryptData a (n + m) b s).xm := by
    rw [cryptData_xm, cryptData_xm, hread, hcrypt]
    rfl
  have hmem : (cryptData (a + n) m (b + n) (cryptData a n b s)).mem = (cryptData a (n + m) b s).mem := by
    rw [cryptData_mem, cryptData_mem, cryptData_mem, hread, hcrypt, Crypted.after, Memory.writeFrom_append, hlen]
  refine (State.eq_of_same ?_ hmem (by simp) (by simp [SamePlatform])).symm
  exact ⟨by simp, by simp, by simp, hgh', hgbuf', hctr, by simp, hxm, by simp, by simp [BitVec.add_assoc]⟩

end

/-! ### The operands of the chunks -/

/-- The first chunk, and the chunks after it, overlap exactly as the whole does. -/
theorem inexactOverlap_chunk {a b n m : Word} (hsum : n.toNat + m.toNat < 2 ^ 64) (h : inexactOverlap a b (n + m) = false) :
    inexactOverlap a b n = false := by
  rw [← Bool.not_eq_true, inexactOverlap_iff] at h ⊢
  bv_omega

theorem Region.Fits.rest {a n m : Word} (hsum : n.toNat + m.toNat < 2 ^ 64) (h : (⟨a, n + m⟩ : Region).Fits) :
    (⟨a + n, m⟩ : Region).Fits := by
  simp only [Region.Fits] at h ⊢
  bv_omega

/-- The chunks after the first, if not empty, start where the first ends, with no wrap. -/
theorem Region.Fits.toNat_rest {a n m : Word} (hsum : n.toNat + m.toNat < 2 ^ 64) (hm : 0 < m.toNat)
    (h : (⟨a, n + m⟩ : Region).Fits) : (a + n).toNat = a.toNat + n.toNat ∧ a.toNat + n.toNat + m.toNat ≤ 2 ^ 64 := by
  simp only [Region.Fits] at h
  bv_omega

theorem inexactOverlap_rest {a b n m : Word} (hsum : n.toNat + m.toNat < 2 ^ 64) (ha : (⟨a, n + m⟩ : Region).Fits)
    (hb : (⟨b, n + m⟩ : Region).Fits) (h : inexactOverlap a b (n + m) = false) : inexactOverlap (a + n) (b + n) m = false := by
  rw [← Bool.not_eq_true, inexactOverlap_iff] at h ⊢
  rintro ⟨hm, hne, hab, hba⟩
  obtain ⟨hastart, -⟩ := ha.toNat_rest hsum hm
  obtain ⟨hbstart, -⟩ := hb.toNat_rest hsum hm
  have hab' : a ≠ b := fun heq => hne (by rw [heq])
  have htotal : (n + m).toNat = n.toNat + m.toNat := by bv_omega
  exact h ⟨by omega, hab', by omega, by omega⟩

/-- The output of the first chunk meets no input of the chunks after it. -/
theorem chunk_output_disjoint {a b n m : Word} (hsum : n.toNat + m.toNat < 2 ^ 64) (ha : (⟨a, n + m⟩ : Region).Fits)
    (hb : (⟨b, n + m⟩ : Region).Fits) (h : inexactOverlap a b (n + m) = false) :
    ∀ i < m.toNat, ∀ j < n.toNat, a + n + BitVec.ofNat 64 i ≠ b + BitVec.ofNat 64 j := by
  intro i hi j hj heq
  rw [← Bool.not_eq_true, inexactOverlap_iff] at h
  obtain ⟨hastart, hafit⟩ := ha.toNat_rest hsum (by omega)
  obtain ⟨hbstart, hbfit⟩ := hb.toNat_rest hsum (by omega)
  have htotal : (n + m).toNat = n.toNat + m.toNat := by bv_omega
  have hinput := toNat_add_offset (addr := a + n) hi (by omega)
  have houtput := toNat_add_offset (addr := b) hj (by omega)
  rw [heq, houtput, hastart] at hinput
  have hab : a ≠ b := by
    rintro rfl
    omega
  exact h ⟨by omega, hab, by omega, by omega⟩

/-- A sum of lengths that does not reach `2^64`. -/
theorem toNat_sum {ns : List Word} (h : (ns.map BitVec.toNat).sum < 2 ^ 64) : ns.sum.toNat = (ns.map BitVec.toNat).sum := by
  induction ns with
  | nil => rfl
  | cons n ns ih =>
    rw [List.map_cons, List.sum_cons] at h ⊢
    have hrest := ih (by omega)
    rw [List.sum_cons, BitVec.toNat_add]
    omega

/-! ### Any number of chunks -/

/-- R141, for a command that is `CRYPT()` in the mode `role`. -/
theorem runChunks_eq_cryptData {command : Word → Word → Word → Instr} {role : Mode}
    (hexec : ∀ {s : State} {x n y : Word}, s.mode = role → inexactOverlap x y n = false → HostReady (.encrypt x n y 0) s →
      exec (command x n y) s = .next (cryptData x n y s))
    {ns : List Word} (hne : ns ≠ []) (hsum : (ns.map BitVec.toNat).sum < 2 ^ 64) {a b : Word} {s : State} (hm : s.mode = role)
    (ho : inexactOverlap a b ns.sum = false) (hfa : (⟨a, ns.sum⟩ : Region).Fits) (hfb : (⟨b, ns.sum⟩ : Region).Fits)
    (hready : ∀ before n after, ns = before ++ n :: after → HostReady (.encrypt (a + before.sum) n (b + before.sum) 0) s) :
    runChunks command a b ns s = .next (cryptData a ns.sum b s) := by
  induction ns generalizing a b s with
  | nil => exact absurd rfl hne
  | cons n ns ih =>
    have hfirst : HostReady (.encrypt a n b 0) s := by simpa using hready [] n ns rfl
    rw [List.map_cons, List.sum_cons] at hsum
    rw [List.sum_cons] at ho hfa hfb ⊢
    have hrest := toNat_sum (ns := ns) (by omega)
    have hsum' : n.toNat + ns.sum.toNat < 2 ^ 64 := by omega
    have hrun : exec (command a n b) s = .next (cryptData a n b s) := hexec hm (inexactOverlap_chunk hsum' ho) hfirst
    simp only [runChunks, hrun]
    by_cases hnil : ns = []
    · subst hnil
      simp [runChunks]
    · rw [ih hnil (by omega) (by rw [cryptData_mode, hm]) (inexactOverlap_rest hsum' hfa hfb ho) (hfa.rest hsum') (hfb.rest hsum'),
        cryptData_cryptData s hsum' (chunk_output_disjoint hsum' hfa hfb ho)]
      intro before k after hns
      have hk := hready (n :: before) k after (by rw [hns]; rfl)
      rw [List.sum_cons, ← BitVec.add_assoc, ← BitVec.add_assoc] at hk
      exact hk.congr (cryptData_windows ..)

/-- Settles O50: by induction over the chunks, the first one and the one command that the rest amount to. -/
theorem chunkIndependence : Obligations.ChunkIndependence := by
  unfold Obligations.ChunkIndependence
  intro s a b ns hne _ hsum ho hr hready
  have hfa := hr.region_fits (input_mem_regionsOf_encrypt ..)
  have hfb := hr.region_fits (output_mem_regionsOf_encrypt ..)
  exact ⟨fun hm => ⟨_, runChunks_eq_cryptData exec_encrypt_of_ready hne hsum hm ho hfa hfb hready, exec_encrypt_of_ready hm ho hr⟩,
    fun hm => ⟨_, runChunks_eq_cryptData exec_decrypt_of_ready hne hsum hm ho hfa hfb hready, exec_decrypt_of_ready hm ho hr⟩⟩

end Sys2Proof.Machine
